-- ==== Sys2Proof/Word.lean ====
section
/-! DEFINITION. The plain number types, the sparse map every indexed family of registers is held in, and the
status codes of 00 R11. -/
namespace Sys2Proof

/-- A byte. -/
abbrev Byte := BitVec 8
/-- A 128-bit word: the unit that the 144/128 code protects (09 R235) and that is read and written whole (01 R30). -/
abbrev Word128 := BitVec 128
/-- The raw bits of an FP32 pattern (04 R111). -/
abbrev F32 := BitVec 32

/-- A family of registers indexed by a number: the entries that differ from the family's default, in rising order.
The operations stand in Machine/Maps.lean. -/
abbrev SMap (α : Type) := List (Nat × α)

/-- The status codes (00 R11). -/
inductive Status where
  | ok | reserved | version | image | capability | timeout | abandoned | partition | staleShard | mowFull
  | mowOrder | nonfinite | scaleExhausted | uncorrectable | quarantined | earlyTwice | signature
  | stateExhausted | busy | range
  deriving DecidableEq, Repr

/-- The 16-bit code of a status (00 R11). -/
def Status.code : Status → Nat
  | .ok => 0x0000 | .reserved => 0x0001 | .version => 0x0002 | .image => 0x0003 | .capability => 0x0004
  | .timeout => 0x0005 | .abandoned => 0x0006 | .partition => 0x0007 | .staleShard => 0x0008
  | .mowFull => 0x0009 | .mowOrder => 0x000A | .nonfinite => 0x000B | .scaleExhausted => 0x000C
  | .uncorrectable => 0x000D | .quarantined => 0x000E | .earlyTwice => 0x000F | .signature => 0x0010
  | .stateExhausted => 0x0011 | .busy => 0x0012 | .range => 0x0013

end Sys2Proof
end

