-- ==== Sys2Proof/Syntax.lean ====
section
/-! DEFINITION. The commands: one constructor of Instr per row of spec/opcode_table.json, with the row's operands, and
the operand types (flits, packets, messages, readings of the environment). A command is the occurrence of one of the
table's steps, whole and indivisible (95_what_each_step_holds.md). -/
namespace Sys2Proof

/-- What a loft is told to remove (08 R222 to R225). -/
inductive InvalOrder where
  /-- Invalidations of a fence (08 R225). -/
  | fence (lines : List Nat)
  /-- An invalidation for a write from outside (08 R223). -/
  | external (line : Nat)
  /-- Drop every line that this base die homes (08 R225). -/
  | drop (home : Nat)
  deriving DecidableEq, Repr

/-- Who writes a window (01 R33). -/
inductive Writer where
  | firmware (proc : Nat)
  | tile (tile ctx : Nat)
  deriving DecidableEq, Repr

/-- One 128-bit word written by a run of an item: its address (the tile offset for the running tile's own scratchpad)
and its 16 bytes as one value (15 R404). -/
structure WordWrite where
  own  : Bool
  addr : Nat
  data : BitVec 128
  deriving DecidableEq, Repr

/-- A Filub flit: the header fields of 10 R265 and the payload. -/
structure Flit where
  type        : Nat
  lane        : Nat
  seq         : Nat
  ackSeq      : Nat
  creditLane  : Nat
  creditCount : Nat
  addr        : Nat
  length      : Nat
  tag         : Nat
  last        : Bool
  payload     : List Byte
  deriving DecidableEq, Repr

/-- The source of a mailbox message (14 R380): an IPv6 address, as the number its bytes spell in network order, and a port over UDP;
an endpoint over MCTP. -/
inductive Src where
  | udp (addr : BitVec 128) (port : BitVec 16)
  | mctp (eid : BitVec 8)
  deriving DecidableEq, Repr

/-- How a message came (10 R255, R263; 14 R378): over UDP the frame's source MAC address and the datagram's destination address
and port; over MCTP the first byte, which is the IC bit and the message type, and the vendor's number. -/
structure Via where
  mac    : BitVec 48 := 0
  addr   : BitVec 128 := 0
  port   : Nat := 46100
  type   : BitVec 8 := 0x7F
  vendor : BitVec 32 := 0
  deriving DecidableEq, Repr

/-- A well-formed mailbox message of the row's TYPE (14 R379): its source and how it came, the header's version and SEQUENCE, and
the payload. A message that fails the header's checks is the row DROPPED_MESSAGE. -/
structure Mail where
  src     : Src
  via     : Via
  seq     : BitVec 32
  major   : Nat
  minor   : Nat
  payload : List Byte
  deriving DecidableEq, Repr

/-- One RDMA request (10 R257): queue pair number, packet sequence number of its first packet, the RETH's key and
address, whether a packet carried a CE mark (10 R260), its packets, and the source MAC address of its frames (10 R255). -/
structure Rdma where
  qpn     : Nat
  psn     : Nat
  rkey    : BitVec 32
  addr    : Nat
  ce      : Bool
  packets : Nat
  mac     : BitVec 48
  deriving DecidableEq, Repr

/-- What an IDENT flit says (10 R266): package serial number, port number, the modules its sender found good, the credits it
advertises per collective and per control lane. -/
structure Ident where
  serial  : BitVec 64
  port    : Nat
  modules : BitVec 10
  coll    : Nat
  ctrl    : Nat
  deriving DecidableEq, Repr

/-- A module's management memory as CMIS gives it (10 R275): 128 bytes of lower page 00h, upper page 00h, pages 01h, 02h and 11h. -/
structure CmisMemory where
  lower  : List Byte
  upper  : List Byte
  page1  : List Byte
  page2  : List Byte
  page11 : List Byte
  deriving DecidableEq, Repr

/-- What a boot finds outside the part's registers (14 R371, R373; 10 R256, R276; 09 R246). -/
structure BootEnv where
  /-- Physical channels that fail training. -/
  badChannels : List Nat
  /-- Tiles that fail the boot tile test (15 R402). -/
  badTiles    : List Nat
  /-- Quarters whose stacks or tiles have not trained. -/
  badQuarters : List Nat
  /-- Whether H0's module advertises the 200 Gb/s application, and the 1.6 Tb/s one, and whether the latter comes up. -/
  h0At200     : Bool
  h0At1600    : Bool
  h0Up1600    : Bool
  /-- Modules of each Filub port found good when it trains, port F0 first. -/
  modules     : List (BitVec 10)
  /-- What the IDENT flits say that each port's modules receive, module 0 first (10 R272, R273); none where none comes. -/
  idents      : List (List (Option Ident))
  /-- Module masks that the two ends of each ring link propose, link B0-B1 first (10 R278). -/
  ringMasks   : List (BitVec 18 × BitVec 18)
  /-- The bytes of the board's FRU EEPROM (10 R276); none when it is missing. -/
  eeprom      : Option (List Byte)
  /-- Flash regions whose check values fail, in the order of 14 R370: 0 the header and slot table, 1 and 2 the firmware slots, 3 the
  retirement list, 4 the fault log, 5 the signature-index ring, 6 the image key, 7 the network record, 8 the tree cache, 9 the
  weighbridge's partition, 10 and 11 the standing image's slots (log 18). -/
  flashBad    : List Nat
  deriving DecidableEq, Repr

/-- What one iteration of a quarter's loop reads (13 R357, R358): per domain (compute die, base die, stacks, SerDes) the
measured power in milliwatts, none when the reading is missing, the rail's voltage in millivolts and the events that the
hardware counters gained; and the hottest sensor of the compute die and of the base die. `fast` says whether H0, when it
retrains, comes up at 1.6 Tb/s (10 R256). -/
structure LoopReading where
  measured : List (Option Nat)
  volts    : List Nat
  events   : List (List Nat)
  hotC     : Int
  hotB     : Int
  fast     : Bool
  deriving DecidableEq, Repr

/-- Why a module leaves service (10 R271). -/
inductive ModuleCause where
  | lockLost | faultFlag | fecErrors
  deriving DecidableEq, Repr

/-- A rail excursion (17 R441). -/
inductive RailEvent where
  /-- Stack or SerDes supply of a quarter below 90 % of nominal: rail 2 or 3. -/
  | low (quarter rail : Nat)
  /-- The auxiliary rail below 1.62 V. -/
  | auxLow
  /-- Rail of a quarter above its maximum. -/
  | high (quarter rail : Nat)
  deriving DecidableEq, Repr

/-- Why H0 drops a frame (10 R255, R257). -/
inductive FrameDrop where
  | tooLong | tag | fragment | icrc
  deriving DecidableEq, Repr

/-- One update of a tensor entry (06 R167, R169, R173). -/
structure StatUpdate where
  base      : Nat
  step      : BitVec 32
  history   : Nat
  histBase  : Nat
  amax      : BitVec 16
  elements  : Nat
  sqerr     : Nat
  sat       : Nat
  nonfinite : Nat
  retry     : Nat
  exhausted : Nat
  deriving DecidableEq, Repr

/-- A parity error that a matrix array finds in its registers (05 R157): in an accumulator entry or in a weight register, at an
entry or an array row of a column; and the tclk of the step's last pass, from its start, at which it is found, none for one
found before that pass. -/
structure ArrayUpset where
  acc    : Bool
  index  : Nat
  column : Nat
  tclk   : Option Nat
  deriving DecidableEq, Repr

/-- A failure that a test of tiles finds (15 R400, R402): tile, item, digest obtained. -/
structure TileFailure where
  tile   : Nat
  item   : Nat
  digest : BitVec 64
  deriving DecidableEq, Repr

/-- The commands. A step row names the tile and the context that issues it; what the step does is in the step word at the
context's step index (03 R70, R74). -/
inductive Instr where
  -- 03: control, predication, step table
  | nop (tile ctx : Nat)
  | setloop (tile ctx : Nat)
  | itemEnd (tile ctx : Nat)
  | halt (tile ctx : Nat)
  | pred (tile ctx : Nat)
  | stepTableRefetch (tile index : Nat)
  | stepUnblock (tile ctx : Nat)
  -- 11: synchronisation
  | arrive (tile ctx : Nat)
  | wait (tile ctx : Nat)
  | arriveWait (tile ctx : Nat)
  | signal (tile ctx : Nat)
  | signalFenced (tile ctx : Nat)
  | waitSignal (tile ctx : Nat)
  | wakePulse (quarter wire tile : Nat)
  | waitTimeout (tile ctx : Nat)
  -- 03: queues and gleaning
  | enqueue (tile ctx : Nat)
  | take (tile ctx : Nat)
  | gleanAnswer (tile ctx : Nat)
  | poolPut (tile ctx : Nat)
  -- 05, 06: the matrix array
  | matmul (tile ctx : Nat) (upset : Option ArrayUpset)
  | split3 (tile ctx : Nat) (upset : Option ArrayUpset)
  | cplx3 (tile ctx : Nat) (upset : Option ArrayUpset)
  | cplx4 (tile ctx : Nat) (upset : Option ArrayUpset)
  | wide8 (tile ctx : Nat) (upset : Option ArrayUpset)
  | matmulStall (tile ctx : Nat) (upset : Option ArrayUpset)
  | chaffDensityStep (tile region : Nat) (upset : Option ArrayUpset)
  -- 07, 08: chain, moves, lofts
  | chainRun (tile ctx : Nat)
  | copy (tile ctx : Nat) (hops : List Nat)
  | fence (tile ctx : Nat)
  | fill (tile ctx : Nat)
  | loftFillReturn (die line : Nat) (upsets : List (Nat × BitVec 144))
  | loftInvalidation (die : Nat) (order : InvalOrder)
  -- 09: scan engines and check-value units
  | gather (tile ctx : Nat)
  | sweep (tile ctx : Nat)
  | sweepGo (writer : Writer) (quarter engine : Nat) (value : BitVec 256)
  | feed (tile ctx : Nat)
  -- 11: collectives
  | allreduce (tile ctx : Nat)
  | reduceScatter (tile ctx : Nat)
  | allGather (tile ctx : Nat)
  | scalarAllreduce (tile ctx : Nat)
  | barrier (tile ctx : Nat)
  | signalPeer (tile ctx : Nat)
  | collectiveCommandStart (group : Nat)
  | chunkArrival (group : Nat) (header : BitVec 128)
  | collectiveCommandEnd (group : Nat)
  | collectiveTimeout (group : Nat)
  | rejoinTokenTimer (group : Nat)
  -- 12: mow and update
  | push (tile ctx : Nat)
  | pop (tile ctx : Nat)
  | clear (tile ctx : Nat)
  | init (tile ctx : Nat)
  | prepare (tile ctx : Nat)
  | commit (tile ctx : Nat)
  | apply (tile ctx : Nat)
  | updateClose (tile ctx : Nat)
  | recover (tile ctx : Nat)
  | tag (tile ctx : Nat)
  | gencheck (tile ctx : Nat)
  | statisticsUpdate (update : StatUpdate)
  -- 15: repeat computation and proving items
  | repeatCompare (tile ctx : Nat) (copy : Option (List WordWrite))
  | repeatResolve (tile ctx : Nat) (third rerun : Option (List WordWrite))
  | repeatTimeout (tile ctx : Nat)
  | repeatSummary (quarter : Nat)
  | provingItemRun (tile item : Nat) (writes : List WordWrite)
  -- 08, 09: temperature, patrol, repair
  | stackTemperatureRead (stack : Nat) (celsius : Int)
  | patrolRead (channel row : Nat) (upsets : List (Nat × BitVec 144))
  | rowRepair (channel row spares : Nat) (wrapperFault : Bool)
  | correctedSummary (quarter : Nat) (ports : List (Nat × Nat))
  -- 01: windows
  | firmwareSignalWrite (proc quarter word : Nat) (value : BitVec 32)
  | registerWrite (writer : Writer) (addr : Nat) (data : List Byte)
  -- 10: H0
  | rdmaWrite (req : Rdma) (data : List Byte)
  | rdmaReadRequest (req : Rdma) (length : Nat)
  | roceRefusedOperation (req : Rdma)
  | cnpReceived (qpn : Nat)
  | readRateRecovery (qpn : Nat)
  | arpRequest (mac : BitVec 48) (vlan : Option (BitVec 12)) (target : BitVec 32)
  | neighbourSolicitation (mac : BitVec 48) (vlan : Option (BitVec 12)) (target : BitVec 128)
  | icmpEcho (mac : BitVec 48) (vlan : Option (BitVec 12)) (target : BitVec 128) (data : List Byte)
  | pfcFrame (priority : Nat) (pause : Bool)
  | h0RateRetry (up : Bool)
  -- 10, 11: Filub flits and links
  | writeFlit (port : Nat) (flit : Flit)
  | signalFlit (port : Nat) (flit : Flit)
  | refuseFlit (port : Nat) (flit : Flit)
  | abandonFlit (port : Nat) (flit : Flit)
  | nakFlit (port : Nat) (flit : Flit)
  | identFlit (port module : Nat) (flit : Flit)
  | idleFlit (port : Nat) (flit : Flit)
  | slotRelease (port : Nat) (flit : Flit)
  | partitionNotice (port : Nat) (flit : Flit)
  | rejoinToken (port : Nat) (flit : Flit)
  | readyToken (port : Nat) (flit : Flit)
  | groupCheck (port : Nat) (flit : Flit)
  | replayTimeout (port : Nat)
  | moduleOutOfService (port module : Nat) (cause : ModuleCause)
  | moduleRetrainTimer (port module : Nat) (trained : Bool)
  | cmisPoll (port module : Nat) (memory : Option CmisMemory) (corrected uncorrectable : Nat)
  | identHeartbeat (port : Nat)
  | d2dResendRequest (link : Nat) (progress : Bool)
  | ringLinkRetrain (link : Nat) (maskA maskB : BitVec 18)
  -- 01, 13: clocks and power
  | referenceLoss
  | pllRelock (env : BootEnv)
  | quarterLoopIteration (quarter : Nat) (reading : LoopReading)
  | droop (plot : Nat)
  | droopRecovery (plot : Nat)
  | supplyWarning (quarter rail : Nat)
  | warningRecoveryStep (quarter : Nat)
  | warningSummary (quarter : Nat)
  | supplyReset (quarter : Nat) (rails : List Nat)
  | railOutOfRange (event : RailEvent)
  | junctionLimit (quarter sensor : Nat) (celsius : Int)
  | junctionHoldRelease (quarter : Nat)
  | thermalTrip (quarter sensor : Nat) (celsius : Int)
  -- 14, 15: boot, resets, firmware processors
  | powerOnReset (env : BootEnv)
  | fullServiceEntry (env : BootEnv)
  | packageWarmReset (env : BootEnv)
  | warmResetInput
  | computeDieReset (quarter : Nat)
  | watchdogExpiry (proc : Nat)
  | standingImageWrite
  | bottomTreeBuild
  | faultLogFlush
  -- 14: mailbox messages
  | openSession (mail : Mail)
  | closeSession (mail : Mail)
  | readResult (mail : Mail)
  | loadImage (mail : Mail) (restartAfter : Option Nat)
  | clearStanding (mail : Mail)
  | enrollImageKey (mail : Mail)
  | setCap (mail : Mail)
  | setPowerStateRun (mail : Mail)
  | setPowerStateIdle (mail : Mail)
  | setPowerStateRest (mail : Mail)
  | resetField (mail : Mail)
  | resetQuarter (mail : Mail)
  | resetPackageWarm (mail : Mail)
  | restartProc (mail : Mail)
  | readFaults (mail : Mail)
  | readRetirements (mail : Mail)
  | getCert (mail : Mail)
  | attest (mail : Mail)
  | qpCreate (mail : Mail)
  | qpModify (mail : Mail)
  | qpDestroy (mail : Mail)
  | setNet (mail : Mail)
  | diagRunTileTest (mail : Mail) (failures : List TileFailure)
  | diagRunDestructive (mail : Mail) (failures : List Nat)
  | diagRunReadCheck (mail : Mail)
  | patternPackInstall (mail : Mail)
  | patternPackRunNow (mail : Mail) (failures : List TileFailure)
  | patternPackRemove (mail : Mail)
  | fwUpdate (mail : Mail)
  | fwWrite (mail : Mail)
  | fwCommit (mail : Mail)
  | fwAccept (mail : Mail)
  | testChallenge (mail : Mail)
  | testUnlock (mail : Mail)
  | setEndpointId (eid newEid : BitVec 8)
  | getEndpointId (eid : BitVec 8)
  | getMctpVersionSupport (eid msgType : BitVec 8)
  | getMessageTypeSupport (eid : BitVec 8)
  | getVendorDefinedMessageSupport (eid selector : BitVec 8)
  | wbReadoutRecord (mail : Mail)
  | wbReadoutIdentification (mail : Mail)
  | wbReadoutCertificate (mail : Mail)
  | wbReadoutAuditEntry (mail : Mail)
  | wbReadoutChallenge (mail : Mail)
  | wbUtc (mail : Mail)
  | wbCalibrate (mail : Mail)
  -- 16: the weighbridge
  | weighbridgeSample (counts : List Int)
  | weighbridgeCheckpoint
  | intervalClose
  | recordSign
  | weighbridgeWatchdog
  -- 17: test access and pins
  | tapReset
  | bypass (die : Nat)
  | idcode (die : Nat)
  | samplePreload (die : Nat)
  | extest (die : Nat)
  | clamp (die : Nat)
  | highz (die : Nat)
  | intest1500 (die : Nat)
  | stack1500 (die : Nat)
  | tqPwrgoodFalling
  | processorRestartEnd (proc : Nat)
  -- dropped input
  | failedFlit (port : Nat) (flit : Flit)
  | droppedMessage (src : Src) (via : Via) (raw : List Byte)
  | droppedFrame (cause : FrameDrop)
  deriving DecidableEq, Repr

end Sys2Proof
end

