-- ==== Sys2Proof/WellFormed.lean ====
section
/-! DEFINITION. Well-formed commands: operands within the ranges the spec gives the things they name. A meaning does not rely on
it: a command out of range leaves the state as it is, or is answered as the spec says. -/
namespace Sys2Proof

/-- A tile and a context (00 R6; 03 R70). -/
def wfTile (t : Nat) : Bool := decide (t < 2304)
def wfCtx (t c : Nat) : Bool := wfTile t && decide (c < 16)
/-- A quarter or base die (00 R5), a plot (00 R7), a stack (00 R5). -/
def wfQuarter (q : Nat) : Bool := decide (q < 4)
def wfPlot (p : Nat) : Bool := decide (p < 144)
def wfStack (k : Nat) : Bool := decide (k < 16)
/-- A channel and a row of it (08 R208). -/
def wfRow (c r : Nat) : Bool := decide (c < 512) && decide (r < 10485760)
/-- A collective group (02 R53), a port (10 R264), a module, a ring link (10 R277). -/
def wfGroup (g : Nat) : Bool := decide (g < 32)
def wfPort (p : Nat) : Bool := decide (p < 6)
def wfModule (m : Nat) : Bool := decide (m < 10)
def wfLink (l : Nat) : Bool := decide (l < 4)
/-- A firmware processor (14 R369), a die of the test chain (17 R445). -/
def wfProc (p : Nat) : Bool := decide (p < 10)
def wfDie (d : Nat) : Bool := decide (d < 8)
/-- A queue pair number and a packet sequence number (10 R257). -/
def wfQpn (n : Nat) : Bool := decide (n < 2 ^ 24)
/-- An address of the physical space (01 R27). -/
def wfAddr (a : Nat) : Bool := decide (a < 2 ^ 42)

/-- A writer of a window. -/
def Writer.wf : Writer → Bool
  | .firmware p => wfProc p
  | .tile t c => wfCtx t c

/-- A flit's header fields (10 R265). -/
def Flit.wf (f : Flit) : Bool :=
  decide (f.type < 16) && decide (f.lane < 32) && decide (f.seq < 4096) && decide (f.ackSeq < 4096) && decide (f.creditLane < 32)
    && decide (f.creditCount < 64) && wfAddr f.addr && decide (f.length ≤ 256) && decide (f.tag < 256)
    && decide (f.payload.length ≤ 256)

/-- A mailbox message (14 R379): at most 4,096 payload bytes, versions of 8 bits. -/
def Mail.wf (m : Mail) : Bool := decide (m.payload.length ≤ 4096) && decide (m.major < 256) && decide (m.minor < 256)

/-- An RDMA request. -/
def Rdma.wf (r : Rdma) : Bool := wfQpn r.qpn && wfQpn r.psn

/-- A rail (15 R397). -/
def wfRail (r : Nat) : Bool := decide (r < 4)
def RailEvent.wf : RailEvent → Bool
  | .low q r => wfQuarter q && wfRail r
  | .auxLow => true
  | .high q r => wfQuarter q && wfRail r

/-- What a boot finds (14 R371). -/
def BootEnv.wf (e : BootEnv) : Bool :=
  e.badChannels.all (fun c => decide (c < 512)) && e.badTiles.all wfTile && e.badQuarters.all wfQuarter
    && decide (e.modules.length ≤ 6) && decide (e.idents.length ≤ 6)
    && e.flashBad.all (fun k => decide (k < 12)) && decide (e.ringMasks.length ≤ 4)

/-- Four domains are read (13 R358). -/
def LoopReading.wf (r : LoopReading) : Bool :=
  decide (r.measured.length = 4) && decide (r.volts.length = 4) && decide (r.events.length = 4)

/-- A thermal sensor: a plot's, or one of a base die's sixteen (13 R365; 15 R397). -/
def wfSensor (n : Nat) : Bool := decide (n < 36) || (decide (0x40 ≤ n) && decide (n < 0x50))

/-- Well-formed commands. -/
def Instr.wf : Instr → Bool
  | .nop t c | .setloop t c | .itemEnd t c | .halt t c | .pred t c | .stepUnblock t c | .arrive t c | .wait t c
  | .arriveWait t c | .signal t c | .signalFenced t c | .waitSignal t c | .waitTimeout t c | .enqueue t c | .take t c
  | .gleanAnswer t c | .poolPut t c | .matmul t c _ | .split3 t c _ | .cplx3 t c _ | .cplx4 t c _ | .wide8 t c _
  | .matmulStall t c _ | .chainRun t c | .copy t c _ | .fence t c | .fill t c | .gather t c | .sweep t c | .feed t c | .allreduce t c
  | .reduceScatter t c | .allGather t c | .scalarAllreduce t c | .barrier t c | .signalPeer t c | .push t c | .pop t c
  | .clear t c | .init t c | .prepare t c | .commit t c | .apply t c | .updateClose t c | .recover t c | .tag t c
  | .gencheck t c | .repeatCompare t c _ | .repeatResolve t c _ _ | .repeatTimeout t c => wfCtx t c
  | .stepTableRefetch t i => wfTile t && decide (i < 4096)
  | .wakePulse q w t => wfQuarter q && decide (w < 64) && wfTile t
  | .chaffDensityStep t r _ => wfTile t && decide (r < 2)
  | .loftFillReturn d _ _ | .loftInvalidation d _ => wfQuarter d
  | .sweepGo w q e _ => w.wf && wfQuarter q && decide (e < 2)
  | .collectiveCommandStart g | .chunkArrival g _ | .collectiveCommandEnd g | .collectiveTimeout g
  | .rejoinTokenTimer g => wfGroup g
  | .statisticsUpdate u => wfAddr u.base && wfAddr u.histBase
  | .repeatSummary q | .correctedSummary q _ | .warningRecoveryStep q | .warningSummary q | .junctionHoldRelease q
  | .computeDieReset q => wfQuarter q
  | .provingItemRun t i _ => wfTile t && decide (i < 4096)
  | .stackTemperatureRead k _ => wfStack k
  | .patrolRead c r _ | .rowRepair c r _ _ => wfRow c r
  | .firmwareSignalWrite p q w _ => wfProc p && wfQuarter q && decide (w < 4096)
  | .registerWrite w a _ => w.wf && wfAddr a
  | .rdmaWrite r _ | .rdmaReadRequest r _ | .roceRefusedOperation r => r.wf
  | .cnpReceived n | .readRateRecovery n => wfQpn n
  | .arpRequest _ _ _ | .neighbourSolicitation _ _ _ | .icmpEcho _ _ _ _ | .h0RateRetry _ | .droppedFrame _ => true
  | .pfcFrame p _ => decide (p < 8)
  | .writeFlit p f | .signalFlit p f | .refuseFlit p f | .abandonFlit p f | .nakFlit p f | .idleFlit p f
  | .slotRelease p f | .partitionNotice p f | .rejoinToken p f | .readyToken p f | .groupCheck p f
  | .failedFlit p f => wfPort p && f.wf
  | .identFlit p m f => wfPort p && wfModule m && f.wf
  | .replayTimeout p | .identHeartbeat p => wfPort p
  | .moduleOutOfService p m _ | .moduleRetrainTimer p m _ => wfPort p && wfModule m
  | .cmisPoll p m _ _ _ => decide (p < 7) && wfModule m
  | .d2dResendRequest l _ | .ringLinkRetrain l _ _ => wfLink l
  | .referenceLoss | .warmResetInput | .standingImageWrite | .bottomTreeBuild | .faultLogFlush | .weighbridgeCheckpoint
  | .intervalClose | .recordSign | .weighbridgeWatchdog | .tapReset | .tqPwrgoodFalling => true
  | .pllRelock e | .powerOnReset e | .fullServiceEntry e | .packageWarmReset e => e.wf
  | .quarterLoopIteration q r => wfQuarter q && r.wf
  | .droop p | .droopRecovery p => wfPlot p
  | .supplyWarning q r => wfQuarter q && decide (r < 2)
  | .supplyReset q rs => wfQuarter q && rs.all wfRail
  | .railOutOfRange e => e.wf
  | .junctionLimit q n _ | .thermalTrip q n _ => wfQuarter q && wfSensor n
  | .watchdogExpiry p | .processorRestartEnd p => wfProc p
  | .openSession m | .closeSession m | .readResult m | .loadImage m _ | .clearStanding m | .enrollImageKey m | .setCap m
  | .setPowerStateRun m | .setPowerStateIdle m | .setPowerStateRest m | .resetField m | .resetQuarter m
  | .resetPackageWarm m | .restartProc m | .readFaults m | .readRetirements m | .getCert m | .attest m | .qpCreate m
  | .qpModify m | .qpDestroy m | .setNet m | .diagRunTileTest m _ | .diagRunDestructive m _ | .diagRunReadCheck m
  | .patternPackInstall m | .patternPackRunNow m _ | .patternPackRemove m | .fwUpdate m | .fwWrite m | .fwCommit m
  | .fwAccept m | .testChallenge m | .testUnlock m | .wbReadoutRecord m | .wbReadoutIdentification m
  | .wbReadoutCertificate m | .wbReadoutAuditEntry m | .wbReadoutChallenge m | .wbUtc m | .wbCalibrate m => m.wf
  | .setEndpointId _ _ | .getEndpointId _ | .getMctpVersionSupport _ _ | .getMessageTypeSupport _
  | .getVendorDefinedMessageSupport _ _ => true
  | .weighbridgeSample cs => decide (cs.length = 8)
  | .bypass d | .idcode d | .samplePreload d | .extest d | .clamp d | .highz d | .intest1500 d | .stack1500 d => wfDie d
  | .droppedMessage _ _ raw => decide (raw.length ≤ 65535)

end Sys2Proof
end

