-- ==== Sys2Proof/Machine/Maps.lean ====
section
/-! DEFINITION. Reading and writing a sparse family of registers (Sys2Proof.SMap), and the plain list helpers. -/
namespace Sys2Proof.Machine

/-- The entry at index i, the family's default d where none is listed. -/
def SMap.get {α : Type} (d : α) : SMap α → Nat → α
  | [], _ => d
  | (j, a) :: m, i => if j = i then a else SMap.get d m i

/-- The map without index i. -/
def SMap.erase {α : Type} : SMap α → Nat → SMap α
  | [], _ => []
  | (j, a) :: m, i => if j = i then SMap.erase m i else (j, a) :: SMap.erase m i

/-- The map with an entry put in before the first larger index. -/
def SMap.insert {α : Type} : SMap α → Nat → α → SMap α
  | [], i, x => [(i, x)]
  | (j, a) :: m, i, x => if i < j then (i, x) :: (j, a) :: m else (j, a) :: SMap.insert m i x

/-- The map with entry i set to x; an entry equal to the default is not listed. -/
def SMap.set {α : Type} [DecidableEq α] (d : α) (m : SMap α) (i : Nat) (x : α) : SMap α :=
  if x = d then SMap.erase m i else SMap.insert (SMap.erase m i) i x

/-- Entry i changed by f. -/
def SMap.modify {α : Type} [DecidableEq α] (d : α) (m : SMap α) (i : Nat) (f : α → α) : SMap α :=
  SMap.set d m i (f (SMap.get d m i))

/-- The indices listed, in order. -/
def SMap.keys {α : Type} (m : SMap α) : List Nat := m.map (·.1)

/-- Every listed entry changed by f of its index. -/
def SMap.mapAll {α : Type} [DecidableEq α] (d : α) (m : SMap α) (f : Nat → α → α) : SMap α :=
  (m.map fun p => (p.1, f p.1 p.2)).filter fun p => p.2 ≠ d

/-- The numbers from lo, n of them. -/
def rangeFrom (lo n : Nat) : List Nat := (List.range n).map (lo + ·)

/-- ceil(a / b). -/
def ceilDiv (a b : Nat) : Nat := (a + b - 1) / b

/-- Bits [hi:lo] of a number. -/
def bits (x hi lo : Nat) : Nat := (x >>> lo) % 2 ^ (hi + 1 - lo)

/-- Bit i of a number. -/
def bit (x i : Nat) : Bool := x.testBit i

/-- The little-endian value of bytes (00 R8). -/
def leNat : List Byte → Nat
  | [] => 0
  | b :: bs => b.toNat + 256 * leNat bs

/-- The n little-endian bytes of a number (00 R8). -/
def leBytes : Nat → Nat → List Byte
  | 0, _ => []
  | n + 1, x => BitVec.ofNat 8 x :: leBytes n (x / 256)

/-- n zero bytes. -/
def zeros (n : Nat) : List Byte := List.replicate n 0

/-- Bytes off to off + n - 1 of a list, zero where it is shorter. -/
def slice (bs : List Byte) (off n : Nat) : List Byte :=
  let x := (bs.drop off).take n
  x ++ zeros (n - x.length)

/-- The little-endian number in bytes off to off + n - 1. -/
def field (bs : List Byte) (off n : Nat) : Nat := leNat ((bs.drop off).take n)

/-- Adds to a counter that saturates at its all-ones value of w bits. -/
def satAdd (w x y : Nat) : Nat := min (2 ^ w - 1) (x + y)

/-- Adds to a counter that wraps at w bits. -/
def wrapAdd (w x y : Nat) : Nat := (x + y) % 2 ^ w

/-- The signed value of a w-bit number. -/
def toSigned (w x : Nat) : Int := if x < 2 ^ (w - 1) then (x : Int) else (x : Int) - 2 ^ w

/-- The w-bit two's complement pattern of an integer. -/
def ofSigned (w : Nat) (x : Int) : Nat := (x % (2 ^ w : Nat)).toNat

/-- x raised to a, cut at both ends. -/
def clampInt (lo hi x : Int) : Int := max lo (min hi x)

/-- The numbers below n for which p holds. -/
def upTo (n : Nat) (p : Nat → Bool) : List Nat := (List.range n).filter p

/-- A bit mask of the numbers below n for which p holds. -/
def maskOf (n : Nat) (p : Nat → Bool) : Nat := (List.range n).foldl (fun a i => if p i then a + 2 ^ i else a) 0

/-- Whether all elements differ. -/
def distinct {α : Type} [DecidableEq α] : List α → Bool
  | [] => true
  | a :: as => !(as.contains a) && distinct as

/-- The list with element x put at the end, cut to the newest n. -/
def pushBounded {α : Type} (n : Nat) (l : List α) (x : α) : List α :=
  let l' := l ++ [x]
  l'.drop (l'.length - n)

/-- The lowest nonzero code among the conditions found, ok when there is none (00 R13). -/
def Status.lowest (conds : List (Bool × Status)) : Status :=
  conds.foldl (fun a c => if c.1 && (a == .ok || decide (c.2.code < a.code)) then c.2 else a) .ok

end Sys2Proof.Machine
end

