-- ==== Sys2Proof/Machine/Crc.lean ====
section
/-! DEFINITION. The cyclic check values (09 R251; 02 R38; 14 R379) and the 144/128 code (09 R234 to R236). -/
namespace Sys2Proof.Machine

/-- The low w bits of x in reverse order (09 R251). -/
def reflect (w x : Nat) : Nat := (List.range w).foldl (fun a i => if x.testBit i then a + 2 ^ (w - 1 - i) else a) 0

/-- The parameters of the check-value procedure (09 R251). -/
structure CrcParams where
  width  : Nat
  poly   : Nat
  init   : Nat
  refin  : Bool
  refout : Bool
  xorout : Nat
  deriving DecidableEq, Repr

/-- One bit fed (09 R251), most significant first. -/
def crcBit (w poly value : Nat) (b : Bool) : Nat :=
  let shifted := value * 2 % 2 ^ w
  if value.testBit (w - 1) != b then shifted ^^^ poly else shifted

/-- One byte fed (09 R251). -/
def crcByte (p : CrcParams) (value : Nat) (b : Byte) : Nat :=
  let x := if p.refin then reflect 8 b.toNat else b.toNat
  [7, 6, 5, 4, 3, 2, 1, 0].foldl (fun v i => crcBit p.width p.poly v (x.testBit i)) value

/-- Bytes fed in order (09 R251). -/
def crcFeed (p : CrcParams) (value : Nat) (bs : List Byte) : Nat := bs.foldl (crcByte p) value

/-- RESULT of a value (09 R251). -/
def crcResult (p : CrcParams) (value : Nat) : Nat :=
  (if p.refout then reflect p.width value else value) ^^^ p.xorout

/-- The check value of bytes. -/
def crc (p : CrcParams) (bs : List Byte) : Nat := crcResult p (crcFeed p p.init bs)

/-- CRC-32C (09 R254, third row). -/
def crc32c : CrcParams := ⟨32, 0x1EDC6F41, 0xFFFFFFFF, true, true, 0xFFFFFFFF⟩
/-- CRC-64/XZ (02 R38). -/
def crc64xz : CrcParams := ⟨64, 0x42F0E1EBA9EA3693, 0xFFFFFFFFFFFFFFFF, true, true, 0xFFFFFFFFFFFFFFFF⟩
/-- The 16-bit row of 09 R254, the group check's (11 R301). -/
def crc16 : CrcParams := ⟨16, 0x1021, 0xFFFF, false, false, 0⟩

/-! ### The 144/128 code -/

/-- Multiplication in GF(16) modulo z⁴ + z + 1 (09 R234). -/
def gfMul (a b : Nat) : Nat :=
  let p := [0, 1, 2, 3].foldl (fun s i => if b.testBit i then s ^^^ (a <<< i) else s) 0
  [6, 5, 4].foldl (fun s i => if s.testBit i then s ^^^ (0x13 <<< (i - 4)) else s) p

/-- The inverse of a nonzero element: a¹⁴. -/
def gfInv (a : Nat) : Nat :=
  let a2 := gfMul a a
  let a4 := gfMul a2 a2
  let a8 := gfMul a4 a4
  gfMul a8 (gfMul a4 a2)

/-- Q(x, y) = x² + x·y + c·y², c = 0x8 (09 R234). -/
def gfQ (x y : Nat) : Nat := gfMul x x ^^^ gfMul x y ^^^ gfMul 8 (gfMul y y)

/-- The contribution of a symbol with a column to a syndrome, coordinate i in bits [4i+3:4i] (09 R235). -/
def symTerm (v x y q : Nat) : Nat := v + gfMul v x * 16 + gfMul v y * 256 + gfMul v q * 4096

/-- The sum over the data symbols of symbol × column (09 R235). -/
def dataSum (d : Nat) : Nat :=
  (List.range 32).foldl (fun s j =>
    let v := (d >>> (4 * j)) % 16
    let x := j % 16
    let y := 2 + j / 16
    s ^^^ symTerm v x y (gfQ x y)) 0

/-- The syndrome of data and check bits (09 R235). -/
def syndrome (d c : Nat) : Nat :=
  let k := fun i => (c >>> (4 * i)) % 16
  dataSum d ^^^ symTerm (k 0) 0 0 0 ^^^ symTerm (k 1) 1 0 1 ^^^ symTerm (k 2) 0 1 8 ^^^ (k 3 * 4096)

/-- The check bits of data (09 R235). -/
def eccEncode (d : Nat) : Nat :=
  let t := dataSum d
  let ti := fun i => (t >>> (4 * i)) % 16
  (ti 0 ^^^ ti 1 ^^^ ti 2) + ti 1 * 16 + ti 2 * 256 + (ti 3 ^^^ ti 1 ^^^ gfMul 8 (ti 2)) * 4096

/-- What the decoder does with a syndrome (09 R236). -/
inductive EccOutcome where
  | clean
  /-- Adds a value to a data symbol. -/
  | data (symbol value : Nat)
  /-- Adds a value to a check symbol. -/
  | check (symbol value : Nat)
  | uncorrectable
  deriving DecidableEq, Repr

/-- The decoder (09 R236). -/
def eccDecide (s : Nat) : EccOutcome :=
  let si := fun i => (s >>> (4 * i)) % 16
  if s = 0 then .clean
  else if si 0 ≠ 0 then
    let inv := gfInv (si 0)
    let x := gfMul (si 1) inv
    let y := gfMul (si 2) inv
    let z := gfMul (si 3) inv
    if z = gfQ x y then
      if y = 2 ∨ y = 3 then .data (x + 16 * (y - 2)) (si 0)
      else if x = 0 ∧ y = 0 then .check 0 (si 0)
      else if x = 1 ∧ y = 0 then .check 1 (si 0)
      else if x = 0 ∧ y = 1 then .check 2 (si 0)
      else .uncorrectable
    else .uncorrectable
  else if si 1 = 0 ∧ si 2 = 0 then .check 3 (si 3)
  else .uncorrectable

end Sys2Proof.Machine
end

