-- ==== Sys2Proof/Config.lean ====
section
/-! DEFINITION. What the manual leaves open: free values and functions with no body, so that a statement holds whatever
they are. Each is named in the assumption log. -/
namespace Sys2Proof.Config

/-- What a byte of memory reads as that has no value: of the memory's era and the address (log 4). -/
opaque freeByte : Nat → Nat → Byte
/-- Fresh free bits of a use and the state's counter `fresh` (log 3). -/
opaque freeBits : Nat → Nat → Nat
/-- The set and way that a line is installed in (08 R221; log 5). -/
opaque loftPlace : Nat → Nat
/-- The identity key's signature of a quote body under an index (14 R387, R388; log 6). -/
opaque identitySign : Nat → List Byte → List Byte
/-- The weighbridge key's signature of a body under an index (16 R426; log 6). -/
opaque weighbridgeSign : Nat → List Byte → List Byte
/-- The root of the identity key's top tree, of its seed and identifier, and the certificate of the public key (14 R387; log 6). -/
opaque identityRoot : BitVec 256 → BitVec 128 → BitVec 256
opaque identityCertificate : List Byte
/-- The weighbridge key's identifier and root, and the certificate of its public key (16 R426; log 6). -/
opaque weighbridgeId : BitVec 128
opaque weighbridgeRoot : BitVec 256
opaque weighbridgeCertificate : List Byte
/-- Horxa's test, pattern and factory keys where the state lists none (14 R392; 15 R400; 16 R430; log 6). -/
opaque horxaKey : Nat → List Byte
/-- What a bundle holds (log 10): its release, its security version, and the firmware of a processor. -/
opaque bundleRelease : List Byte → BitVec 32
opaque bundleSecurity : List Byte → Nat
opaque firmware : List Byte → Nat → List Byte
/-- The ROM version, the weighbridge's software version and digest (14 R384; 16 R419; log 10). -/
opaque romVersion : BitVec 32
opaque weighbridgeVersion : BitVec 32
opaque weighbridgeDigest : BitVec 256
/-- Horxa's JEP106 identity, 11 bits (17 R447; log 10). -/
opaque jep106 : BitVec 11
/-- The manufacturer number of Horxa's record in a board's FRU EEPROM (10 R276; log 18). -/
opaque boardMaker : BitVec 24
/-- The device's mailbox minor version (14 R380), the MCTP versions of a message type, 4 bytes each, and the version of the
vendor-defined messages (14 R378; log 11). -/
opaque mailboxMinor : Byte
opaque mctpVersions : Byte → List Byte
opaque vendorVersion : BitVec 16
/-- The leakage in milliwatts of a domain (4·quarter + domain) at a temperature in °C and a rail voltage in millivolts (13 R358;
log 8). -/
opaque leakage : Nat → Int → Nat → Nat
/-- Microvolts and milliamperes per ADC count of a weighbridge channel, as millionths (16 R420; log 13). -/
opaque adcScale : Nat → Nat

end Sys2Proof.Config
end

