-- ==== Sys2Proof/Machine/State.lean ====
section
/-! DEFINITION. The state of one package: every register, table, queue, memory and pin the spec gives it, as plain data,
and State.reset. Indexed families are sparse maps (SMap); the default entry of each family is the definition named
beside it and is what the family holds at reset. -/
namespace Sys2Proof.Machine

/-! ### Tiles (03, 05, 13, 15) -/

/-- Context states (03 R73). -/
inductive CtxState where
  | unowned | ready | running | blocked | sleeping | halted | quarantined
  deriving DecidableEq, Repr

/-- The condition of a wait in progress (03 R83, 11 R286, R300). -/
inductive Wait where
  /-- Barrier unit (index 64·quarter + unit); `round` is the ROUND whose release is awaited. -/
  | barrier (unit : Nat) (round : BitVec 32)
  /-- Signal word (index 4096·quarter + word) and threshold. -/
  | signal (word : Nat) (threshold : BitVec 32)
  /-- A queued collective command of a group. -/
  | coll (group : Nat)
  deriving DecidableEq, Repr

/-- A wait: its condition, its wake wire (64·quarter + wire), the sclk count at its start and its timeout in ticks. -/
structure Waiting where
  cond    : Wait
  wire    : Nat
  start   : Nat
  timeout : Nat
  deriving DecidableEq, Repr

/-- Outcome codes of a repeat check (15 R407 REPEAT). -/
inductive RepeatOutcome where
  | match_ | transientOriginal | transientCopy | permanent | unresolved | notComparable | notCompared
  deriving DecidableEq, Repr

/-- The repeat check of the item a context holds (15 R405 to R408). -/
structure RepeatCheck where
  copyTile  : Option Nat
  thirdTile : Option Nat
  started   : Nat
  /-- Digest d2 and the copy's digest step done; the third run and the rerun are under way. -/
  d2        : Option (BitVec 64)
  outcome   : Option RepeatOutcome
  /-- ITEM_END has been reached and waits for the outcome (15 R408). -/
  atEnd     : Bool
  deriving DecidableEq, Repr

/-- A context (03 R70, R107). -/
structure Ctx where
  owner      : Nat := 0xFF
  state      : CtxState := .unowned
  step       : Nat := 0
  loopStart  : SMap (BitVec 32) := []
  loopCur    : SMap (BitVec 32) := []
  flags      : BitVec 16 := 0
  lastStatus : Status := .ok
  item       : Option (BitVec 512) := none
  ret        : Nat := 0
  waiting    : Option Waiting := none
  /-- A gleaning request of TAKE is out (03 R97). -/
  gleaning   : Bool := false
  digest     : BitVec 64 := 0
  check      : Option RepeatCheck := none
  /-- What a step that is Blocked or gleaning read when it issued: slots by number, and the rounding key at 0x10000 (03 R84; 04
  R128). -/
  latched    : SMap (Option (BitVec 256)) := []
  deriving DecidableEq, Repr

/-- A step table word with the field whose template wrote it (03 R68, R69, R449). -/
structure StepEntry where
  word  : BitVec 128
  field : Nat
  deriving DecidableEq, Repr

/-- A work queue's registers; its items lie in the scratchpad (03 R92, R108). -/
structure Queue where
  head  : Nat := 0
  count : Nat := 0
  deriving DecidableEq, Repr

/-- The counters of a tile's status block (03 R106). -/
structure TileCounters where
  own        : Nat := 0
  gleanedIn  : Nat := 0
  gleanedOut : Nat := 0
  pool       : Nat := 0
  steps      : Nat := 0
  /-- tclk spent by contexts in state 4, up to the last wait that ended. -/
  slept      : Nat := 0
  deriving DecidableEq, Repr

/-- A region of a tile's array: region 0 is columns 0 to 15, region 1 columns 16 to 31 (05 R132, R149, R154, R160). `stall`:
the next pass makes a stall load. `two`: its cells hold the weights of a 2-bit pass. `ramp`: windows of the chaff ramp passed
in the current gap, 0 to 9. `active`, `shadow`: the weight registers, array row by array row, a cell's weights packed with the
lowest k lowest; active registers not listed hold the 32 rows that they took at power-on reset (13 R363). `acc`: the
accumulator entries, entry by entry. Shadows and accumulators have no reset value: none is listed (log 24). -/
structure Region where
  stall  : Bool := true
  two    : Bool := false
  ramp   : Nat := 0
  active : List (List Nat) := []
  shadow : List (List Nat) := []
  acc    : List (List F32) := []
  deriving DecidableEq, Repr

/-- What a check context holds: the tile and context whose item it runs (15 R403, R405). -/
structure CheckRun where
  tile : Nat
  ctx  : Nat
  deriving DecidableEq, Repr

/-- The tiles. Index t is the package tile index (00 R6); a context has index 16·t + c, a step word 4096·t + i, a field's
queue 16·t + f, an array region 2·t + r; a plot has its plot index (00 R7). -/
structure Tiles where
  ctxs        : SMap Ctx := []
  table       : SMap (Option StepEntry) := []
  tableCopy   : SMap (Option StepEntry) := []
  queues      : SMap Queue := []
  putBack     : SMap (List (Nat × BitVec 512)) := []
  /-- 0 not quarantined; otherwise the cause of 15 R398 (1 repeat, 2 pattern pack, 3 boot test). -/
  quarantine  : SMap Nat := []
  level       : SMap Nat := []
  counters    : SMap TileCounters := []
  regions     : SMap Region := []
  halfMode    : SMap Bool := []
  /-- The chaff generator's value exclusive-ored with its value after power-on reset and the 32 rows taken then (13 R363). -/
  chaff       : SMap (BitVec 64) := []
  checks      : SMap (Option CheckRun) := []
  /-- The check step areas: word 64·t + k is index 4,032 + k (03 R68, R69). -/
  checkSteps  : SMap (BitVec 128) := []
  droop       : SMap Bool := []
  deriving DecidableEq, Repr

/-! ### Fields and image sections (02) -/

/-- A recipe record of one tensor kind (02 R49). -/
structure Recipe where
  history : Nat := 1
  margin  : Int := 0
  pow2    : Bool := false
  deriving DecidableEq, Repr

/-- A collective group record (02 R53). -/
structure GroupRec where
  group      : Nat
  lane       : Nat
  members    : Nat
  rank       : Nat
  nextPort   : Nat
  prevPort   : Nat
  nextSerial : BitVec 64
  prevSerial : BitVec 64
  queueBase  : Nat
  cribTiles  : List Nat
  lengths    : List Nat
  /-- The group check of 11 R301, over the record and its length table. -/
  check      : BitVec 16
  deriving DecidableEq, Repr

/-- A synchronisation record (02 R54). -/
structure SyncRec where
  signal  : Bool
  quarter : Nat
  wake    : Nat
  index   : Nat
  count   : Nat
  deriving DecidableEq, Repr

/-- A template: plots it is written to, first index, step words (02 R51). -/
structure Template where
  plots : BitVec 144
  base  : Nat
  words : List (BitVec 128)
  deriving DecidableEq, Repr

/-- A loaded field: what its sections say (02 R42, R46, R49 to R54) and whether its journals are scanned (12 R323). -/
structure Field where
  crop          : Bool
  host          : Nat
  plots         : BitVec 144
  contexts      : BitVec 16
  banks         : BitVec 8
  div           : Nat
  repeatDenom   : Nat
  base          : Nat
  size          : Nat
  near          : Option Nat
  mowMib        : Nat
  gatherMib     : Nat
  journalChunks : Nat
  recipes       : List Recipe
  initExp       : Nat
  growth        : Nat
  hasChain      : Bool
  shapes        : List (BitVec 512)
  entries       : List Nat
  templates     : List Template
  groups        : List GroupRec
  syncs         : List SyncRec
  imageId       : BitVec 64
  scanned       : Bool
  deriving DecidableEq, Repr

/-- The POWER section's fractions of one quarter (02 R48). -/
structure Split where
  share  : Nat := 250
  die    : Nat := 480
  base   : Nat := 180
  stack  : Nat := 220
  serdes : Nat := 120
  deriving DecidableEq, Repr

/-- The digest of an image applied and whether its signature was checked (02 R67). -/
structure ImageMark where
  digest  : BitVec 256
  checked : Bool
  deriving DecidableEq, Repr

/-- The image's fields and package sections. -/
structure Fields where
  fields     : SMap (Option Field) := []
  /-- The near regions in force, by field: quarter, first granule, granules (08 R210). A field reset keeps its region's
  placement; a load decides it anew (02 R62). -/
  near       : SMap (Option (Nat × Nat × Nat)) := []
  /-- IMAGE_ID of the last image applied to each field (15 R396). -/
  imageIds   : SMap (BitVec 64) := []
  seed       : BitVec 32 := 0
  splits     : SMap Split := []
  chaffFloor : Nat := 30
  fullImage  : Option ImageMark := none
  partials   : SMap (Option ImageMark) := []
  deriving DecidableEq, Repr

/-! ### Synchronisation (11) -/

/-- A barrier unit (11 R289). `bits` holds three bits per context (index 16·t + c): 1 ARRIVED_BIT, 2 EARLY_BIT,
4 known participant. -/
structure Barrier where
  field      : Nat := 0xFF
  allocated  : Bool := false
  wake       : Nat := 0
  count      : Nat := 0
  arrived    : Nat := 0
  early      : Nat := 0
  seen       : Nat := 0
  round      : BitVec 32 := 0
  releases   : BitVec 64 := 0
  earlyTwice : Nat := 0
  abandons   : Nat := 0
  bits       : SMap Nat := []
  deriving DecidableEq, Repr

/-- The attribute word of a signal word (11 R290). -/
structure Attr where
  field : Nat := 0xFF
  wake  : Nat := 0
  deriving DecidableEq, Repr

/-- Barrier units (64·quarter + unit), signal words and attributes (4096·quarter + word), and wake wires
(64·quarter + wire): the pulses each wire has sent and, by 2304·wire + tile, the pulses each tile has served, so that a
tile has a pulse latched while it has served fewer than the wire has sent (11 R281, R282). -/
structure Sync where
  barriers : SMap Barrier := []
  words    : SMap (BitVec 32) := []
  attrs    : SMap Attr := []
  sent     : SMap Nat := []
  served   : SMap Nat := []
  deriving DecidableEq, Repr

/-! ### Memory (01, 08, 09) -/

/-- A loft fill outstanding (08 R224). -/
structure LoftFill where
  line   : Nat
  data   : List Byte
  marked : Bool
  deriving DecidableEq, Repr

/-- A loft: lines held (by granule index, 256 bytes each), fills outstanding, ways and counters (08 R221, R227;
09 R239). -/
structure Loft where
  lines     : SMap (List Byte) := []
  /-- Where each line held lies, 16·set + way, and the bits upset in it since it was installed, by word (address / 16). -/
  places    : SMap Nat := []
  flips     : SMap (BitVec 144) := []
  fills     : List LoftFill := []
  ways      : Nat := 16
  /-- Drops of uncorrectable lines counted of each way of a set (16·set + way), and those that three drops have disabled
  until power-on reset (09 R239). -/
  drops     : SMap Nat := []
  disabled  : List Nat := []
  lookups   : Nat := 0
  hits      : Nat := 0
  filled    : Nat := 0
  invFence  : Nat := 0
  invExt    : Nat := 0
  ovDrops   : Nat := 0
  deriving DecidableEq, Repr

/-- A field's invalidation log on one base die (08 R222, R228). -/
structure InvalLog where
  lines    : List Nat := []
  overflow : Bool := false
  deriving DecidableEq, Repr

/-- A memory channel (08 R231; 09 R243, R244, R246). -/
structure Channel where
  reads     : Nat := 0
  writes    : Nat := 0
  mappedOut : Bool := false
  marked    : Bool := false
  spares    : Nat := 0
  /-- The request queue (log 3): its depth after the last request, the largest since QUEUE_HIGH was read, and the mclk cycles in
  which it held a request and held 64. -/
  queueNow  : Nat := 0
  queueHigh : Nat := 0
  busy      : Nat := 0
  full      : Nat := 0
  deriving DecidableEq, Repr

/-- Thermal states of a stack (08 R232). -/
inductive Thermal where
  | normal | tooHot | critical
  deriving DecidableEq, Repr

/-- The bytes of stack memory and scratchpads by physical address (01 R27), in one canonical form: addresses strictly
rising, and no entry equal to what an unlisted address reads as. `zeroed` lists the scratchpad banks
(8·tile + bank) whose unlisted bytes read as zero (02 R61); every other unlisted byte has no value in the list and reads
as a free value of the current `era`, which a reset or a change of placement moves on (02 R62, 15 R412). -/
structure Bytes where
  cells  : List Host.Cell := []
  zeroed : List Nat := []
  era    : Nat := 0
  deriving DecidableEq, Repr

/-- What stack memory holds under the placement of full service while early service runs under another (14 R374; 15 R412 note
a): the bytes and flips listed, and the live list, near regions and seed that place them. -/
structure Retained where
  cells : List Host.Cell := []
  flips : SMap (BitVec 144) := []
  live  : List Nat := []
  near  : SMap (Option (Nat × Nat × Nat)) := []
  seed  : BitVec 32 := 0
  deriving DecidableEq, Repr

/-- Memory, its check bits, lofts, channels and stacks. `flips`: for each 128-bit word (address / 16), the bits in which
what is stored differs from the codeword of its data, data flips in bits [127:0] and check flips in [143:128]
(09 R235); a poisoned word has check flips 0xFFFF (09 R241). -/
structure Mem where
  bytes     : Bytes := {}
  flips     : SMap (BitVec 144) := []
  lofts     : SMap Loft := []
  logs      : SMap InvalLog := []
  channels  : SMap Channel := []
  live      : List Nat := []
  thermal   : SMap Thermal := []
  /-- Words corrected in the current 60 s window: (UNIT_CLASS, UNIT_INDEX, TILE, QUARTER) and the count (09 R240). -/
  corrected : List ((Nat × Nat × Nat × Nat) × Nat) := []
  /-- sclk counts at which reads of a row (channel·2^24 + row) corrected words (09 R243). -/
  rowTimes  : SMap (List Nat) := []
  /-- Retirement list entries, oldest first (09 R245). -/
  retired   : List (BitVec 64) := []
  /-- SEQ of the entry appended last, also when it has been deleted since (09 R245, R246). -/
  retireSeq : Option Nat := none
  retained  : Retained := {}
  /-- What channels hold that are not live because their quarters are out of service (08 R208). -/
  away      : List Retained := []
  deriving DecidableEq, Repr

/-! ### Scan engines and check-value units (09) -/

/-- A scan engine's registers (09 R249); engine index 2·quarter + e. -/
structure Scan where
  start      : Nat := 0
  stride     : Nat := 0
  count      : Nat := 0
  block16m1  : Nat := 0
  initFirst  : Bool := false
  cvu        : Nat := 0
  busy       : Bool := false
  lastStatus : Status := .ok
  progress   : Nat := 0
  deriving DecidableEq, Repr

/-- A check-value unit's registers (09 R252); unit index 4·quarter + u. The reset values give CRC-32C. -/
structure Cvu where
  width      : Nat := 32
  refin      : Bool := true
  refout     : Bool := true
  busy       : Bool := false
  lastStatus : Status := .ok
  poly       : BitVec 64 := 0x1EDC6F41
  init       : BitVec 64 := 0xFFFFFFFF
  xorout     : BitVec 64 := 0xFFFFFFFF
  value      : BitVec 64 := 0xFFFFFFFF
  result     : BitVec 64 := 0
  bytes      : Nat := 0
  deriving DecidableEq, Repr

/-- The units of the base dies. -/
structure Units where
  scans : SMap Scan := []
  cvus  : SMap Cvu := []
  deriving DecidableEq, Repr

/-! ### What the block sends -/

/-- Replies to RDMA requests (10 R257, R258). -/
inductive RoceReply where
  | ack (psn : Nat)
  | data (psn : Nat) (bytes : List Byte)
  | nakSequence (psn : Nat)
  | nakInvalid
  | nakAccess
  | nakOperational
  | cnp
  deriving DecidableEq, Repr

/-- What the block has sent (log 2). -/
inductive Out where
  /-- A mailbox reply; over UDP to the MAC address of the frame that caused it (10 R255). -/
  | reply (dst : Src) (mac : BitVec 48) (bytes : List Byte)
  /-- A RoCEv2 packet, with the ECN field it carries: 2 is ECT(0) (10 R260). -/
  | roce (qp : Nat) (mac : BitVec 48) (ecn : Nat) (reply : RoceReply)
  /-- A priority flow control frame (10 R262). -/
  | pfc (priority : Nat) (pause : Bool)
  /-- A write of a module's page 10h, which selects its application (10 R272, R275); port 6 is H0's. -/
  | select (port module : Nat)
  | arp (mac : BitVec 48) (addr : BitVec 32)
  | neighbour (mac : BitVec 48) (addr : BitVec 128)
  | echo (mac : BitVec 48) (addr : BitVec 128) (data : List Byte)
  | flit (port : Nat) (flit : Flit)
  | mctp (eid : BitVec 8) (bytes : List Byte)
  | resend (link : Nat)
  /-- The status that a window answers its writer with (09 R249, R252). -/
  | writeStatus (writer : Writer) (status : Status)
  | thermtrip (asserted : Bool)
  deriving DecidableEq, Repr

/-! ### Ports (10) -/

/-- Port states (10 R274, R280). -/
inductive PortState where
  | absent | training | up | loopback | down | heldDown
  deriving DecidableEq, Repr

/-- A Filub port (10 R264 to R274, R280). -/
structure Port where
  state      : PortState := .absent
  modules    : BitVec 10 := 0
  miswired   : BitVec 10 := 0
  peerSerial : BitVec 64 := 0
  peerPort   : Nat := 7
  retrains   : Nat := 0
  inCap      : Bool := false
  lastStatus : Status := .ok
  txSeq      : Nat := 0
  rxSeq      : Nat := 0
  /-- Flits sent and not yet acknowledged, oldest first (10 R269). -/
  held       : List Flit := []
  /-- Flits that wait for a credit or for room in the replay window. -/
  waiting    : List Flit := []
  /-- Credits held for each of the peer's lanes. -/
  credits    : SMap Nat := []
  /-- Receive-buffer slots taken of each own lane, not yet returned as credits. -/
  taken      : SMap Nat := []
  nakSent    : Bool := false
  /-- Flits accepted that wait at the head of their lane's receive buffer or behind it, by lane (10 R267; 11 R309). -/
  rx         : SMap (List Flit) := []
  replays    : Nat := 0
  /-- Refusals counted while all four REFUSE slots were in use, and the latest of them, with its status (10 R267). -/
  refusals   : Nat := 0
  late       : Option (Flit × Status) := none
  /-- The module that takes the next flit in turn, and the module that carried each flit held, by SEQ (10 R271). -/
  deal       : Nat := 0
  carrier    : SMap Nat := []
  /-- What modules have reported in training before the lowest-numbered one did (10 R273). -/
  idents     : SMap (Option Ident) := []
  /-- Modules that do not answer over CMIS: absent, and not trained (10 R275). -/
  absent     : BitVec 10 := 0
  counters   : SMap Nat := []
  snapshots  : SMap (List Byte) := []
  deriving DecidableEq, Repr

/-- A die-to-die link (10 R277, R278, R280), links in the order B0-B1, B1-B3, B3-B2, B2-B0. -/
structure Ring where
  state    : PortState := .absent
  modules  : BitVec 18 := 0
  disagree : Bool := false
  /-- The last retrain recorded a disagreement. -/
  lastBad  : Bool := false
  resends  : Nat := 0
  counters : SMap Nat := []
  deriving DecidableEq, Repr

/-- Queue pair states (10 R261). -/
inductive QpState where
  | reset | init | rtr | rts | error
  deriving DecidableEq, Repr

/-- A RoCEv2 queue pair (10 R257, R261; 14 R384). -/
structure Qp where
  state     : QpState
  mtu       : Nat
  rkey      : BitVec 32
  remoteQpn : Nat
  psn       : Nat
  addr      : BitVec 128
  last      : Status := .ok
  cnpSent   : Nat := 0
  rate      : Nat := 64
  cnpAt     : Option Nat := none
  deriving DecidableEq, Repr

/-- The network configuration (14 R384 SET_NET). -/
structure Net where
  ipv6     : BitVec 128 := 0
  ipv4     : BitVec 128 := 0
  vlan     : Nat := 0
  rocePrio : Nat := 0
  mgmtPrio : Nat := 0
  pfc      : Bool := false
  udpPort  : Nat := 0
  sources  : List (BitVec 128) := []
  deriving DecidableEq, Repr

/-- What waits because it would cross a split ring (01 R19): a signal write of a source, from the quarter it comes from; an RDMA
operation of a queue pair; a firmware processor's write to a window, by the quarter and place it goes to. -/
inductive Stalled where
  | signal (source origin quarter word : Nat) (value : BitVec 32)
  | write (qp : Nat) (req : Rdma) (data : List Byte)
  | read (qp : Nat) (req : Rdma) (length : Nat)
  | register (proc : Nat) (addr : Nat) (data : List Byte)
  deriving DecidableEq, Repr

/-- H0, its queue pairs, the Filub ports, the ring links and the board description. -/
structure Ports where
  h0State    : PortState := .absent
  h0Lanes    : Nat := 0
  h0Last     : Status := .ok
  h0Counters : SMap Nat := []
  paused     : SMap Bool := []
  /-- What waits on a paused priority: priority, frames, what is sent (10 R262). -/
  held       : List (Nat × Nat × Out) := []
  /-- Priorities that the device has paused its peer on (10 R262). -/
  pausing    : SMap Bool := []
  stalled    : List Stalled := []
  net        : Net := {}
  qps        : SMap (Option Qp) := []
  ports      : SMap Port := []
  rings      : SMap Ring := []
  h0Fitted   : Bool := true
  fitted     : SMap (BitVec 10) := []
  boardPort  : Nat := 46100
  board      : List Byte := []
  h0Snapshot : List Byte := []
  deriving DecidableEq, Repr

/-! ### Collective groups (11) -/

/-- The COLL operations (11 R297). -/
inductive CollOp where
  | allreduce | reduceScatter | allGather | scalarAllreduce | barrier | signalPeer
  deriving DecidableEq, Repr

/-- A command record (11 R297, R298): the descriptors and the block as read at issue. -/
structure CollCmd where
  op        : CollOp
  tile      : Nat
  ctx       : Nat
  opSeq     : Nat
  length    : Nat
  descA     : Option (BitVec 256)
  scaleA    : Option (BitVec 256)
  descD     : Option (BitVec 256)
  scaleD    : Option (BitVec 256)
  params    : BitVec 256
  scalars   : List F32
  slotD     : Nat
  /-- The rounding key of the first crib tile, as read at issue. -/
  key       : Nat
  start     : Nat
  /-- SIGNAL_PEER's word: COUNT_LO. -/
  imm       : Nat
  deriving DecidableEq, Repr

/-- One chunk's wire image: shard, chunk number, phase, elements, NONFINITE, bytes (11 R305, R307). -/
structure Chunk where
  shard     : Nat
  chunk     : Nat
  phase     : Nat
  elements  : Nat
  nonfinite : Bool
  image     : List Byte
  /-- The receive slot that the chunk was built from and that its forwarding releases (11 R306). -/
  slot      : Option Nat := none
  deriving DecidableEq, Repr

/-- The command a sequencer runs (11 R300, R306): chunks made and not yet sent, counts, the carry of the sum of
squares. -/
structure CollRun where
  cmd       : CollCmd
  ready     : List Chunk
  sent      : Nat
  received  : Nat
  released  : Nat
  nonfinite : Bool
  carry     : F32
  /-- The first data element that could not be read or written ended the part with this status. -/
  failed    : Status
  deriving DecidableEq, Repr

/-- Group states (11 R296). -/
inductive GroupState where
  | ready | running | partitioned | abandoned
  deriving DecidableEq, Repr

/-- A collective group (11 R296). -/
structure Group where
  field       : Nat
  desc        : GroupRec
  state       : GroupState := .ready
  epoch       : BitVec 16 := 0
  lastStatus  : Status := .ok
  partitions  : Nat := 0
  nextOpSeq   : Nat := 1
  doneOpSeq   : Nat := 0
  chunksSent  : Nat := 0
  chunksRecv  : Nat := 0
  queue       : List CollCmd := []
  run         : Option CollRun := none
  /-- Data flits written to each receive slot since it was last released (11 R309). -/
  slotFlits   : SMap Nat := []
  /-- Own check sent; checks of next and previous received and equal (11 R301). -/
  checkSent   : Bool := false
  nextChecked : Bool := false
  prevChecked : Bool := false
  tokenEpoch  : BitVec 16 := 0
  deriving DecidableEq, Repr

/-! ### Power and clocks (01, 13) -/

/-- A quarter's power and clock state (13 R355 to R365; 15 R409, R411). -/
structure Quarter where
  inService  : Bool := false
  inReset    : Bool := false
  ladder     : Nat := 0
  stackPos   : Nat := 0
  floor      : Bool := false
  hold       : Bool := false
  /-- The last ten iterations, newest first: measured and estimated power of the four domains, in milliwatts. -/
  power      : List (List Nat × List Nat) := []
  /-- Iterations in a row in which every budget held below 95 % and every sensor stayed below 97 °C (13 R357). -/
  cool       : Nat := 0
  stackCool  : Nat := 0
  /-- Iterations for which a restarted controller still fills its average and moves nothing (13 R367). -/
  filling    : Nat := 0
  /-- Iterations in a row of disagreement above 25 %, of agreement within 10 %, and distrust (13 R359). -/
  disagree   : Nat := 0
  agree      : Nat := 0
  distrust   : Bool := false
  overRecord : Bool := false
  /-- Supply-warning stretch in force; the position the return has reached (13 R362). -/
  warned     : Bool := false
  recovery   : Nat := 0
  warnings   : Nat := 0
  warnRails  : Nat := 0
  warnTimes  : List Nat := []
  /-- Budgets in milliwatts: the quarter's, then compute die, base die, stacks, SerDes (13 R353). -/
  budgets    : List Nat := [1200000, 576000, 216000, 264000, 144000]
  offset     : Nat := 0
  repeat6    : Nat := 0
  repeat7    : Nat := 0
  deriving DecidableEq, Repr

/-- Causes of a reset or restart (15 R398 class 0x0F). -/
inductive ResetCause where
  | clockLoss | supply (quarter rail : Nat) | watchdog | fatal | restartProc | repeated (proc : Nat) | message
  | computeDie | ringSplit | warmPin | overVoltage (quarter rail : Nat) | recovery
  deriving DecidableEq, Repr

/-- Power states of SET_POWER_STATE (15 R413). -/
inductive PowerState where
  | run | idle | rest
  deriving DecidableEq, Repr

/-- Caps, clocks, quarters, sensors, trip and reset inputs. -/
structure Power where
  cap       : Nat := 4800
  sclk      : Nat := 0
  pllLocked : Bool := true
  quarters  : SMap Quarter := []
  /-- Last readings in °C: 0 to 3 compute dies, 4 to 7 base dies, 8 to 23 stacks. -/
  temps     : SMap Int := []
  tripped   : Bool := false
  state     : PowerState := .run
  /-- Package warm resets called for and not yet carried out. -/
  warmDue   : List ResetCause := []
  pwrgood   : Bool := false
  deriving DecidableEq, Repr

/-! ### Management (14, 15) -/

/-- Service states (14 R380, R384, R386). -/
inductive Service where
  | off | early | earlyHeld | full | recovery
  deriving DecidableEq, Repr

/-- A mailbox session (14 R380, R381, R383). -/
structure Session where
  src     : Src
  minor   : Nat
  last    : Option (BitVec 32 × List Byte) := none
  result  : List Byte := []
  resultSeq : Option (BitVec 32) := none
  /-- SEQUENCE of a request still executing: a quarter RESET that has not completed (14 R381, R384). -/
  executing : Option (BitVec 32) := none
  deriving DecidableEq, Repr

/-- A firmware bundle (14 R369, R372, R385): its bytes, whether the checks of 14 R372 on its key and its signature pass,
its release and security version. The spec gives no layout, so these are read by functions of Config when the bundle is
written (log 10). -/
structure Bundle where
  bytes     : List Byte
  authentic : Bool
  release   : BitVec 32
  security  : Nat
  deriving DecidableEq, Repr

/-- A standing image slot: the image and its signature block as written (02 R66). -/
structure StandingSlot where
  bytes : List Byte
  deriving DecidableEq, Repr

/-- The Horxa section of a fault record (15 R396). -/
structure Fault16 where
  number     : Nat := 0
  detail     : BitVec 512 := 0
  imageId    : BitVec 64 := 0
  itemSeq    : BitVec 32 := 0
  count      : Nat := 1
  step       : Nat := 0
  ctx        : Nat := 0
  temp       : Int := 0
  div        : Nat := 0
  voffset    : Nat := 0
  repeat_    : Nat := 0
  unitIndex  : Nat := 0
  syndrome   : Nat := 0
  addr       : Nat := 0
  sclk       : Nat := 0
  tile       : Nat := 0xFFF
  quarter    : Nat := 0
  field      : Nat := 0xFF
  cls        : Nat := 0
  unitClass  : Nat := 0
  status     : Status := .ok
  fatal      : Bool := false
  previous   : Bool := false
  deriving DecidableEq, Repr

/-- A pattern pack's item (15 R401): the digest expected, the unit it tests, and what it places in the scratchpad. -/
structure PackItem where
  digest : BitVec 64
  kind   : Nat
  steps  : List (BitVec 128)
  slots  : List Byte
  data   : List Byte
  deriving DecidableEq, Repr

/-- The installed pattern pack (15 R400). -/
structure Pack where
  version : Nat
  items   : List PackItem
  deriving DecidableEq, Repr

/-- The fuses and marks of manufacture (14 R371, R387; 16 R425; 17 R447). -/
structure Fuses where
  serial     : BitVec 64 := 1
  legal      : Bool := false
  security   : Nat := 0
  revisions  : SMap Nat := []
  /-- Horxa's IANA enterprise number, as the identity window reports it (14 R378). -/
  enterprise : BitVec 32 := 0
  /-- The root key digest (14 R372), and the identity key's private seed and identifier (14 R387). -/
  rootKey    : BitVec 256 := 0
  seed       : BitVec 256 := 0
  keyId      : BitVec 128 := 0
  /-- Horxa's public keys of 60 bytes that the part holds: 0 test, 1 pattern, 2 factory (14 R392; 15 R400; 16 R430). One that is not
  listed is a free value (log 6). -/
  keys       : SMap (Option (List Byte)) := []
  /-- The energy of each event in picojoules, by 64·quarter + 16·domain + event (13 R358; log 8). -/
  energies   : SMap Nat := []
  deriving DecidableEq, Repr

/-- The management processor's state: service, sessions, flash, fault records, keys, test access. -/
structure Mgmt where
  service    : Service := .off
  /-- Order 5 of the passage to full service has begun (14 R373, R380). -/
  passage    : Bool := false
  /-- The quarters that orders 1 to 4 have trained while a refused OPEN holds orders 5 and 6 (14 R373, R380). -/
  trained    : Option (List Nat) := none
  capWord    : BitVec 64 := 0
  sessions   : List Session := []
  eid        : BitVec 8 := 0
  release    : BitVec 32 := 0x01000000
  bundle     : Option Bundle := none
  dropped    : Nat := 0
  foreign    : Nat := 0
  /-- Restart times of each processor, newest first (14 R377). -/
  restarts   : SMap (List Nat) := []
  restarting : SMap Bool := []
  waiting    : List Instr := []
  /-- Requests under execution that wait for another processor's restart to end (14 R376). -/
  parked     : List Instr := []
  /-- Bytes of the datagrams among those that wait, which H0's receive buffer keeps (10 R262). -/
  waitBytes  : Nat := 0
  /-- Flash (14 R370). -/
  slots      : SMap (Option Bundle) := []
  active     : Nat := 0
  pendingFw  : Option Nat := none
  standing   : SMap (Option StandingSlot) := []
  standMark  : Option Nat := none
  standWrite : Option (List Byte) := none
  imageKey   : Option (List Byte) := none
  netRecord  : Option Net := none
  /-- The signature-index ring's last record, the next index, the bottom trees built (14 R388, R389). -/
  sigEnd     : Nat := 0
  sigNext    : Nat := 0
  trees      : Nat := 1
  fuses      : Fuses := {}
  /-- Fault records (15 R393, R399). -/
  buffer     : List Fault16 := []
  log        : List Fault16 := []
  nextRecord : Nat := 1
  lostFaults : Nat := 0
  pack       : Option Pack := none
  challenge  : Option (BitVec 256) := none
  scopes     : Nat := 0
  /-- Quarter RESET messages whose reset has not completed, by quarter: source and SEQUENCE (14 R384). -/
  resetReply : SMap (List (Src × BitVec 48 × BitVec 32)) := []
  deriving DecidableEq, Repr

/-! ### Weighbridge (16) -/

/-- One channel's calibration (16 R430): gain in units of 2⁻³⁰, offset in ADC counts. -/
structure Cal where
  gain   : Nat := 0x40000000
  offset : Int := 0
  deriving DecidableEq, Repr

/-- The accumulators: what a checkpoint holds beside the running count (16 R420, R422, R423, R425). -/
structure Accum where
  energy     : Nat := 0
  fraction   : Nat := 0
  cumEnergy  : Nat := 0
  work       : SMap Nat := []
  remainder  : SMap Nat := []
  cumWork    : SMap Nat := []
  start      : Nat := 0
  flags      : Nat := 0
  deriving DecidableEq, Repr

/-- An audit entry, its 64-byte body and its signature (16 R431). -/
structure Audit where
  counter   : Nat
  body      : List Byte
  signature : List Byte
  deriving DecidableEq, Repr

/-- A stored record, its 224-byte body and its signature (16 R425). -/
structure Record where
  number    : Nat
  body      : List Byte
  signature : List Byte
  deriving DecidableEq, Repr

/-- The weighbridge (16). -/
structure Wb where
  running    : Nat := 0
  accum      : Accum := {}
  utc        : Nat := 0
  utcAt      : Nat := 0
  cals       : SMap Cal := []
  checkpoint : Option (Nat × Accum) := none
  closed     : Option (List Byte) := none
  records    : List Record := []
  nextNumber : Nat := 0
  sigNext    : Nat := 0
  sigEnd     : Nat := 0
  auditCount : Nat := 0
  audits     : List Audit := []
  challenge  : Option (BitVec 256) := none
  restarting : Bool := false
  waiting    : List Instr := []
  deriving DecidableEq, Repr

/-! ### The package -/

/-- TAP instructions in force (17 R446): the eight dies' instruction registers, index in the order B0, C0, B1, C1, B3,
C3, B2, C2; what each acts as. -/
structure Tap where
  ir : SMap Nat := []
  deriving DecidableEq, Repr

/-- The state of the package, the commands waiting and what has been sent. -/
structure State where
  tiles   : Tiles := {}
  fields  : Fields := {}
  sync    : Sync := {}
  mem     : Mem := {}
  units   : Units := {}
  ports   : Ports := {}
  colls   : SMap (Option Group) := []
  power   : Power := {}
  mgmt    : Mgmt := {}
  wb      : Wb := {}
  tap     : Tap := {}
  pending : List Instr := []
  out     : List Out := []
  /-- The counter that free values are drawn with: the model's own (log 3). -/
  fresh   : Nat := 0
  deriving DecidableEq, Repr

/-- Why the block stops: no row of the table does, so no meaning answers with it; safe. -/
inductive Fault where
  | none
  deriving DecidableEq, Repr

/-- Why a command has no meaning. -/
inductive Refusal where
  /-- Raised by Dispatch for a row without a meaning yet; safe. No arm of Dispatch raises it. -/
  | notModelled (mnemonic : String)
  deriving DecidableEq, Repr

/-- The bundle the package ships with in slot 0 (17 R448), which its ROM accepts: DESIGN CHOICE (log 10). -/
def shippedBundle : Bundle :=
  { bytes := [], authentic := true, release := 0x01000000, security := 0 }

/-- The package before TQ_PWRGOOD first rises: every register at the value the spec gives for power-on reset, the shipped
bundle in flash slot 0, no command waiting. -/
def State.reset : State :=
  { mgmt := { slots := [(0, some shippedBundle)] } }

end Sys2Proof.Machine
end

