-- ==== Sys2Proof/Machine/Layout.lean ====
section
/-! DEFINITION. Where things lie: quarters, plots and plot distance (00 R6, R7), the ring (01 R17, R18), the address map
(01 R27, R28, R31), the interleave (08 R208 to R211) and the field regions (08 R230). -/
namespace Sys2Proof.Machine

/-! ### Tiles and plots (00 R6, R7) -/

def tileQuarter (t : Nat) : Nat := t / 576
def tileY (t : Nat) : Nat := t % 576 / 24
def tileX (t : Nat) : Nat := t % 24
/-- The package plot index of a tile. -/
def tilePlot (t : Nat) : Nat := 36 * (t / 576) + 6 * (tileY t / 4) + tileX t / 4
def plotQuarter (p : Nat) : Nat := p / 36
/-- The sixteen tiles of a plot, in tile index order. -/
def plotTiles (p : Nat) : List Nat :=
  let d := p / 36
  let y := p % 36 / 6 * 4
  let x := p % 6 * 4
  (List.range 16).map fun i => 576 * d + 24 * (y + i / 4) + x + i % 4

/-- Plot distance (03 R96), between plots of one die. -/
def plotDistance (a b : Nat) : Nat :=
  let d := fun (u v : Nat) => if u < v then v - u else u - v
  max (d (a % 36 / 6) (b % 36 / 6)) (d (a % 6) (b % 6))

/-! ### The ring (01 R17, R18) -/

/-- A quarter's place on the ring B0-B1-B3-B2. -/
def ringPos : Nat → Nat
  | 0 => 0 | 1 => 1 | 3 => 2 | _ => 3

/-- Whether the links from ring place a, going on for n links, are all up. -/
def ringPathUp (s : State) (a : Nat) : Nat → Bool
  | 0 => true
  | n + 1 => (SMap.get {} s.ports.rings (a % 4)).state == .up && ringPathUp s (a + 1) n

/-- The ways that data of a granule may take from quarter q to quarter r: the place whose link is the first of those between them
clockwise from there, and how many they are. Adjacent dies take the link between them; diagonal ones go clockwise with an even
granule and anticlockwise with an odd one; the other way round comes second (01 R18). -/
def ringWays (granule q r : Nat) : List (Nat × Nat) :=
  let a := ringPos q
  let b := ringPos r
  let clockwise := (a, (b + 4 - a) % 4)
  let back := (b, (a + 4 - b) % 4)
  if clockwise.2 < 2 ∨ (clockwise.2 = 2 ∧ granule % 2 = 0) then [clockwise, back] else [back, clockwise]

/-- The way that the data takes: the first whose links are all up; none while no way is (01 R18, R19). -/
def ringRoute (s : State) (granule q r : Nat) : Option (Nat × Nat) := (ringWays granule q r).find? fun w => ringPathUp s w.1 w.2

/-- Whether the ring carries transfers between two quarters (01 R18, R19): which granule they carry makes no difference. -/
def ringReaches (s : State) (q r : Nat) : Bool := (ringRoute s 0 q r).isSome

/-! ### The address map (01 R27, R28, R31) -/

def scratchBase : Nat := 0x20000000000
def windowBase : Nat := 0x30000000000
def quarterWindow (q : Nat) : Nat := windowBase + 0x1000000 + 0x1000000 * q

/-- The top of stack memory (01 R28). -/
def stackTop (s : State) : Nat := 2684354560 * s.mem.live.length

/-- What an address belongs to. -/
inductive Place where
  | stack
  | pad (tile off : Nat)
  | package (off : Nat)
  | quarter (q off : Nat)
  | reserved
  deriving DecidableEq, Repr

def place (s : State) (a : Nat) : Place :=
  if a < stackTop s then .stack
  else if scratchBase ≤ a ∧ a < scratchBase + 2304 * 0x100000 then
    .pad ((a - scratchBase) / 0x100000) ((a - scratchBase) % 0x100000)
  else if windowBase ≤ a ∧ a < windowBase + 0x100000 then .package (a - windowBase)
  else if quarterWindow 0 ≤ a ∧ a < quarterWindow 4 then
    let o := a - quarterWindow 0
    if o % 0x1000000 < 0x340000 then .quarter (o / 0x1000000) (o % 0x1000000) else .reserved
  else .reserved

/-- The address of a tile's scratchpad offset. -/
def padAddr (tile off : Nat) : Nat := scratchBase + 0x100000 * tile + off

/-! ### The interleave (08 R208 to R211) -/

/-- Granule slots of a channel. -/
def rowSlots : Nat := 10485760

/-- The row hash (08 R209). -/
def rowHash (seed : BitVec 32) (b : Nat) : Nat :=
  let y := BitVec.ofNat 32 b ^^^ seed
  (y ^^^ (y >>> 9) ^^^ (y >>> 18) ^^^ (y >>> 27)).toNat

/-- The live channels of a quarter (08 R208). -/
def quarterLive (s : State) (q : Nat) : List Nat := s.mem.live.filter fun c => c / 128 == q

/-- The near regions in force: quarter, first granule, granules (08 R210). -/
def nearRegions (s : State) : List (Nat × Nat × Nat) := s.fields.near.filterMap (·.2)

/-- Near granules of a quarter (08 R210). -/
def nearCount (s : State) (q : Nat) : Nat :=
  ((nearRegions s).filter (·.1 == q)).foldl (fun a r => a + r.2.2) 0

/-- Near granules at granule indices below g, of the quarters that p picks. -/
def nearBelow (s : State) (p : Nat → Bool) (g : Nat) : Nat :=
  ((nearRegions s).filter (fun r => p r.1)).foldl (fun a r => a + min r.2.2 (g - r.2.1)) 0

/-- The near quarter of a granule, if it lies in a near region. -/
def nearQuarter (s : State) (g : Nat) : Option Nat :=
  ((nearRegions s).find? fun r => r.2.1 ≤ g && g < r.2.1 + r.2.2).map (·.1)

/-- The channels of quarter q that near granules take in row b (08 R210, R211). -/
def nearChannels (s : State) (q b : Nat) : List Nat :=
  let l := quarterLive s q
  let c := l.length
  let n := nearCount s q
  if c = 0 then []
  else if rowSlots ≤ b + n / c then l
  else if b + n / c + 1 = rowSlots then
    (List.range (n % c)).map fun j => l.getD ((j + rowHash s.fields.seed b) % c) 0
  else []

/-- The row set a(b) (08 R211). -/
def rowSet (s : State) (b : Nat) : List Nat :=
  let taken := [0, 1, 2, 3].flatMap fun q => nearChannels s q b
  s.mem.live.filter fun c => !taken.contains c

/-- p(b): interleaved granules in the rows below b (08 R211). -/
def rowStart (s : State) (b : Nat) : Nat :=
  b * s.mem.live.length - [0, 1, 2, 3].foldl (fun a q =>
    let n := nearCount s q
    a + (n - min n ((rowSlots - b) * (quarterLive s q).length))) 0

/-- The last row b from lo, of 2^k, with p(b) ≤ g. -/
def findRow (s : State) (g : Nat) : Nat → Nat → Nat
  | 0, lo => lo
  | k + 1, lo => findRow s g k (if rowStart s (lo + 2 ^ k) ≤ g then lo + 2 ^ k else lo)

/-- Channel and row of a granule of stack memory (08 R210, R211). -/
def placement (s : State) (gran : Nat) : Nat × Nat :=
  match nearQuarter s gran with
  | some q =>
    let i := nearBelow s (· == q) gran
    let l := quarterLive s q
    let row := rowSlots - 1 - i / l.length
    (l.getD ((i % l.length + rowHash s.fields.seed row) % l.length) 0, row)
  | none =>
    let g := gran - nearBelow s (fun _ => true) gran
    if (nearRegions s).isEmpty then
      let c := s.mem.live.length
      let b := g / c
      (s.mem.live.getD ((g % c + rowHash s.fields.seed b) % c) 0, b)
    else
      let b := findRow s g 24 0
      let a := rowSet s b
      (a.getD ((g - rowStart s b + rowHash s.fields.seed b) % a.length) 0, b)

/-- The channel of a stack address. -/
def channelOf (s : State) (a : Nat) : Nat := (placement s (a / 256)).1
/-- The stack of a channel (08 R208). -/
def channelStack (c : Nat) : Nat := c / 32

/-- The quarter whose base die is the home of an address of memory. -/
def homeOf (s : State) (a : Nat) : Nat :=
  match place s a with
  | .stack => channelOf s a / 128
  | .pad t _ => tileQuarter t
  | .quarter q _ => q
  | _ => 0

/-! ### Fields (02 R43; 08 R230) -/

def fieldOf (s : State) (f : Nat) : Option Field := SMap.get none s.fields.fields f
/-- Whether a field occupies a tile. -/
def Field.onTile (fd : Field) (t : Nat) : Bool := bit fd.plots.toNat (tilePlot t)
/-- The tiles of a field. -/
def Field.tiles (fd : Field) : List Nat := (upTo 144 fun p => bit fd.plots.toNat p).flatMap plotTiles
/-- The quarters that a field's plots touch, rising. -/
def Field.quarters (fd : Field) : List Nat := upTo 4 fun q => bits fd.plots.toNat (36 * q + 35) (36 * q) != 0
/-- The lowest bank of the field's BANK_MASK. -/
def Field.lowBank (fd : Field) : Nat := (upTo 8 fun b => bit fd.banks.toNat b).headD 0
def Field.contextList (fd : Field) : List Nat := upTo 16 fun c => bit fd.contexts.toNat c
/-- The size of one journal. -/
def Field.journal (fd : Field) : Nat := 65536 * fd.journalChunks
/-- The journal of a touched quarter (08 R230). -/
def Field.journalBase (fd : Field) (q : Nat) : Nat :=
  fd.base + (fd.quarters.filter (· < q)).length * fd.journal
def Field.mowBase (fd : Field) : Nat := fd.base + fd.quarters.length * fd.journal
def Field.mowSize (fd : Field) : Nat := 0x100000 * fd.mowMib
/-- The rounding key of a field on a tile (04 R128). -/
def keyAddr (fd : Field) (tile : Nat) : Nat := padAddr tile (0x20000 * fd.lowBank + 0x4000)
/-- Whether a field owns a bank on a tile (03 R69). -/
def ownsBank (s : State) (f tile bank : Nat) : Bool :=
  match fieldOf s f with
  | some fd => fd.onTile tile && bit fd.banks.toNat bank
  | none => false

end Sys2Proof.Machine
end

