-- ==== Sys2Proof/Machine/Windows.lean ====
section
/-! DEFINITION. What the control and status windows read as (01 R31 to R33; 03 R106 to R108; 08 R227, R228, R231; 09 R249,
R252; 10 R261, R274, R279, R280; 11 R289, R290) and who may access them. -/
namespace Sys2Proof.Machine

/-- A register block's value from its fields: lowest bit and value. -/
def pack (fields : List (Nat × Nat)) : Nat := fields.foldl (fun a f => a + f.2 <<< f.1) 0

/-- Byte i of a block. -/
def blockByte (x i : Nat) : Byte := BitVec.ofNat 8 (x >>> (8 * i))

def b2n (b : Bool) : Nat := if b then 1 else 0

/-- A barrier unit's block (11 R289). -/
def barrierBlock (b : Barrier) : Nat :=
  pack [(0, b.field), (8, b2n b.allocated), (16, b.wake), (32, b.count), (48, b.arrived), (64, b.early), (80, b.seen),
    (96, b.round.toNat), (128, b.releases.toNat), (192, b.earlyTwice), (224, b.abandons)]

/-- A scan engine's block (09 R249). -/
def scanBlock (e : Scan) : Nat :=
  pack [(0, e.start), (64, e.stride), (128, e.count), (160, e.block16m1), (193, b2n e.initFirst), (194, e.cvu),
    (196, b2n e.busy), (208, e.lastStatus.code), (224, e.progress)]

/-- A check-value unit's block (09 R252). -/
def cvuBlock (u : Cvu) : Nat :=
  pack [(0, u.width), (9, b2n u.refin), (10, b2n u.refout), (11, b2n u.busy), (16, u.lastStatus.code),
    (64, u.poly.toNat), (128, u.init.toNat), (192, u.xorout.toNat), (256, u.value.toNat), (320, u.result.toNat),
    (384, u.bytes)]

/-- A loft's block (08 R227). -/
def loftBlock (l : Loft) : Nat :=
  pack [(0, l.ways), (64, l.lookups), (128, l.hits), (192, l.filled), (256, l.invFence), (320, l.invExt),
    (384, l.ovDrops)]

/-- A field's loft entry (08 R228). -/
def logEntry (g : InvalLog) : Nat := pack [(0, g.lines.length), (16, b2n g.overflow)]

/-- A free number below a bound that never falls from one value of the counter `fresh` to the next (log 3). -/
def freeRising (use fresh x bound : Nat) : Nat :=
  (List.range (fresh + 1)).foldl (fun m i => max m (Config.freeBits use (2 ^ 64 * x + i) % bound)) 0

/-- A channel's counter block (08 R231). Since the last request the queue has only drained, by how much is free (log 3). -/
def channelBlock (s : State) (c : Nat) : Nat :=
  let ch := SMap.get {} s.mem.channels c
  let now := if ch.mappedOut then ch.queueNow else ch.queueNow - freeRising 1 s.fresh ((ch.writes * 2 ^ 64 + ch.reads) * 512 + c) (ch.queueNow + 1)
  pack [(0, c), (9, b2n ch.mappedOut), (64, now), (128, ch.queueHigh), (192, ch.reads), (256, ch.writes), (320, ch.busy),
    (384, ch.full)]

/-- Port state codes (10 R280), and those of the topology table (10 R274), which has no held-down state. -/
def PortState.code : PortState → Nat
  | .absent => 0 | .training => 1 | .up => 2 | .loopback => 3 | .down => 4 | .heldDown => 5

/-- A topology entry (10 R274). -/
def topologyEntry (p : Port) : Nat :=
  pack [(0, p.modules.toNat), (10, (upTo 10 fun m => bit p.modules.toNat m).length), (14, p.peerPort),
    (17, min p.state.code 4), (20, b2n p.inCap), (21, p.miswired.toNat), (32, p.retrains), (64, p.peerSerial.toNat)]

/-- What a port status slot of a quarter names (10 R279). -/
inductive SlotName where
  | empty | h0 | port (k : Nat) | ring (link : Nat)
  deriving DecidableEq, Repr

def slotName (q slot : Nat) : SlotName :=
  match q, slot with
  | 0, 0 => .h0 | 0, 1 => .port 0
  | 1, 0 => .port 1 | 1, 1 => .port 2
  | 2, 0 => .port 3 | 2, 1 => .port 4
  | 3, 0 => .port 5
  | q, 2 => .ring (ringPos q)
  | q, 3 => .ring ((ringPos q + 3) % 4)
  | _, _ => .empty

/-- The quarter and slot of a Filub port (10 R279). -/
def portQuarter : Nat → Nat
  | 0 => 0 | 1 => 1 | 2 => 1 | 3 => 2 | 4 => 2 | _ => 3

/-- A slot's status word (10 R280). -/
def slotStatus (s : State) : SlotName → Nat
  | .empty => 0
  | .h0 =>
    pack [(0, 1), (3, s.ports.h0State.code), (6, s.ports.h0Lanes), (11, 2 ^ s.ports.h0Lanes - 1),
      (29, b2n s.ports.net.pfc), (32, s.ports.h0Last.code)]
  | .port k =>
    let p := SMap.get {} s.ports.ports k
    pack [(0, 2), (3, p.state.code), (6, (upTo 10 fun m => bit p.modules.toNat m).length), (11, p.modules.toNat),
      (32, p.lastStatus.code)]
  | .ring l =>
    let r := SMap.get {} s.ports.rings l
    pack [(0, 3), (3, r.state.code), (6, (upTo 18 fun m => bit r.modules.toNat m).length), (11, r.modules.toNat),
      (48, b2n r.disagree)]

/-- Counter i of a slot (10 R280). -/
def slotCounter (s : State) (n : SlotName) (i : Nat) : Nat :=
  match n with
  | .empty => 0
  | .h0 => SMap.get 0 s.ports.h0Counters i
  | .port k => SMap.get 0 (SMap.get {} s.ports.ports k).counters i
  | .ring l => SMap.get 0 (SMap.get {} s.ports.rings l).counters i

def QpState.code : QpState → Nat
  | .reset => 0 | .init => 1 | .rtr => 2 | .rts => 3 | .error => 4

/-- A queue pair's entry (10 R261). -/
def qpEntry (q : Option Qp) : Nat :=
  match q with
  | none => 0
  | some q =>
    pack [(0, q.state.code), (5, q.mtu), (8, q.rate), (24, q.cnpSent), (40, q.last.code), (56, q.psn),
      (80, q.remoteQpn)]

/-- A byte of a port status slot (10 R261, R275, R280). -/
def slotByte (s : State) (n : SlotName) (off : Nat) : Byte :=
  if n = .empty then 0
  else if off < 8 then blockByte (slotStatus s n) off
  else if 0x40 ≤ off ∧ off < 0xA0 then blockByte (slotCounter s n ((off - 0x40) / 8)) (off % 8)
  else
    match n with
    | .port k =>
      if 0x1000 ≤ off ∧ off < 0x2400 then
        (SMap.get [] (SMap.get {} s.ports.ports k).snapshots ((off - 0x1000) / 0x200)).getD (off % 0x200) 0
      else 0
    | .h0 =>
      if 0x4000 ≤ off ∧ off < 0x5000 then
        blockByte (qpEntry (SMap.get none s.ports.qps ((off - 0x4000) / 16))) (off % 16)
      else if 0x1000 ≤ off ∧ off < 0x1200 then s.ports.h0Snapshot.getD (off - 0x1000) 0
      else 0
    | _ => 0

/-- The state code of a context (03 R73). -/
def CtxState.code : CtxState → Nat
  | .unowned => 0 | .ready => 1 | .running => 2 | .blocked => 3 | .sleeping => 4 | .halted => 5 | .quarantined => 6

/-- A context record (03 R107). ITEM_SEQ reads 0 while no item is held: DESIGN CHOICE (log 25). -/
def ctxRecord (x : Ctx) : Nat :=
  pack [(0, x.step), (16, x.state.code), (56, x.owner), (192, x.flags.toNat), (208, x.lastStatus.code),
    (224, (x.item.map itemSeqNat).getD 0), (256, (SMap.get 0 x.loopCur 0).toNat), (288, (SMap.get 0 x.loopCur 1).toNat),
    (320, (SMap.get 0 x.loopCur 2).toNat), (352, (SMap.get 0 x.loopCur 3).toNat)]
where
  itemSeqNat (w : BitVec 512) : Nat := bits w.toNat 127 96

/-- The fields present on a tile. -/
def fieldsOn (s : State) (t : Nat) : List Nat :=
  upTo 16 fun f => ((fieldOf s f).map fun fd => fd.onTile t).getD false

/-- The tclk of a sleep that begins when a tile's counter stands where it does: at least one, and free (03 R106; log 3). -/
def sleepLength (c : TileCounters) (tile : Nat) : Nat := 1 + Config.freeBits 5 (2304 * c.slept + tile)

/-- A byte of a tile's status block (03 R106 to R108). What contexts asleep now have slept is free, and no more than
the sleep's length (log 3). -/
def tileByte (s : State) (t off : Nat) : Byte :=
  let fs := fieldsOn s t
  if off < 0x40 then
    if fs.isEmpty then 0
    else blockByte (pack ([(0, b2n (SMap.get 0 s.tiles.quarantine t != 0)), (1, b2n (SMap.get false s.tiles.halfMode t))]
      ++ fs.map fun f => (2 + f, 1))) off
  else if off < 0x440 then
    blockByte (if fs.isEmpty then pack [(56, 0xFF)] else ctxRecord (SMap.get {} s.tiles.ctxs (16 * t + (off - 0x40) / 0x40))) (off % 0x40)
  else if off < 0x540 then
    let f := (off - 0x440) / 0x10
    if fs.contains f then
      let q := SMap.get {} s.tiles.queues (16 * t + f)
      let lo := ((fieldOf s f).map Field.lowBank).getD 0
      blockByte (pack [(0, q.count), (16, q.head), (24, (q.head + q.count) % 256), (32, 0x20000 * lo)]) (off % 0x10)
    else 0
  else if off < 0x570 then
    if fs.isEmpty then 0
    else
      let c := SMap.get {} s.tiles.counters t
      let sleeps := (List.range 16).any fun k => (SMap.get {} s.tiles.ctxs (16 * t + k)).state == .sleeping
      let slept := wrapAdd 64 c.slept (if sleeps then freeRising 12 s.fresh (2304 * c.slept + t) (sleepLength c t + 1) else 0)
      blockByte (([c.own, c.gleanedIn, c.gleanedOut, c.pool, c.steps, slept] : List Nat).getD ((off - 0x540) / 8) 0) (off % 8)
  else 0

/-- A byte of a quarter window (01 R32). The places in the first 64 KiB are this model's (log 10): the sclk count in bytes 0
to 7, in service and in reset in bits 0 and 1 of byte 8. -/
def quarterByte (s : State) (q off : Nat) : Byte :=
  let sub := off % 0x10000
  if off < 0x10000 then
    if sub < 8 then blockByte s.power.sclk sub
    else if sub = 8 then
      let qs := SMap.get {} s.power.quarters q
      BitVec.ofNat 8 (b2n qs.inService + 2 * b2n qs.inReset)
    else 0
  else if off < 0x20000 then
    if sub % 0x400 < 32 then blockByte (barrierBlock (SMap.get {} s.sync.barriers (64 * q + sub / 0x400))) (sub % 0x400)
    else 0
  else if off < 0x30000 then
    if sub < 0x4000 then blockByte (SMap.get 0 s.sync.words (4096 * q + sub / 4)).toNat (sub % 4)
    else if sub < 0x8000 then
      let a := SMap.get {} s.sync.attrs (4096 * q + (sub - 0x4000) / 4)
      blockByte (pack [(0, a.wake), (8, a.field)]) (sub % 4)
    else 0
  else if off < 0x40000 then
    if sub < 0x200 ∧ sub % 0x100 < 64 then blockByte (scanBlock (SMap.get {} s.units.scans (2 * q + sub / 0x100))) (sub % 0x100)
    else 0
  else if off < 0x50000 then
    if sub < 0x400 ∧ sub % 0x100 < 64 then blockByte (cvuBlock (SMap.get {} s.units.cvus (4 * q + sub / 0x100))) (sub % 0x100)
    else 0
  else if off < 0x60000 then
    if sub < 0x40 then blockByte (loftBlock (SMap.get {} s.mem.lofts q)) sub
    else if sub < 0xC0 then blockByte (logEntry (SMap.get {} s.mem.logs (16 * q + (sub - 0x40) / 8))) (sub % 8)
    else 0
  else if off < 0x80000 then
    let o := off - 0x60000
    if o % 0x400 < 56 then blockByte (channelBlock s (128 * q + o / 0x400)) (o % 0x400) else 0
  else if off < 0x100000 then
    let o := off - 0x80000
    slotByte s (slotName q (o / 0x10000)) (o % 0x10000)
  else if off < 0x340000 then
    tileByte s (576 * q + (off - 0x100000) / 0x1000) (off % 0x1000)
  else 0

/-- A byte of the package identity window. Only the topology table's place is given (10 R274); the others are this model's
(log 10): the serial number at 0, the capability word at 8, the die revisions at 16, the enterprise number at 24, the board's
identity at 0x2000. -/
def packageByte (s : State) (off : Nat) : Byte :=
  if off < 8 then blockByte s.mgmt.fuses.serial.toNat off
  else if off < 16 then blockByte s.mgmt.capWord.toNat (off - 8)
  else if off < 24 then BitVec.ofNat 8 (SMap.get 1 s.mgmt.fuses.revisions (off - 16))
  else if off < 28 then blockByte s.mgmt.fuses.enterprise.toNat (off - 24)
  else if 0x1000 ≤ off ∧ off < 0x1060 then
    blockByte (topologyEntry (SMap.get {} s.ports.ports ((off - 0x1000) / 16))) (off % 16)
  else if 0x2000 ≤ off then s.ports.board.getD (off - 0x2000) 0
  else 0

/-! ### Access (01 R33) -/

/-- Who accesses. -/
inductive Agent where
  | tile | outside | firmware
  deriving DecidableEq, Repr

/-- The windows of 01 R33 by place. -/
def windowReadable (a : Agent) : Place → Bool
  | .package _ => true
  | .quarter _ off => a != .tile || (0x10000 ≤ off && off < 0x100000)
  | _ => false

/-- Whether ordinary writes may reach a place: scan engines and check-value units, by tiles and firmware. -/
def windowWritable (a : Agent) : Place → Bool
  | .quarter _ off => a != .outside && 0x30000 ≤ off && off < 0x50000
  | _ => false

end Sys2Proof.Machine
end

