-- ==== Sys2Proof/Machine/Faults.lean ====
section
/-! DEFINITION. Fault records: the environment snapshot (15 R396; 13 R350), building and writing a record (15 R393, R399). -/
namespace Sys2Proof.Machine

/-! ### Clock dividers (13 R350, R355; 15 R409) -/

/-- Divider codes: 0 ÷8, 1 ÷10, 2 ÷12, 3 ÷16. The divider of a ladder position (13 R355). -/
def ladderDiv (pos : Nat) : Nat := min pos 3

def quarterOf (s : State) (q : Nat) : Quarter := SMap.get {} s.power.quarters q

/-- The position that a quarter's tiles follow: the most restrictive of its ladder's, the one that the return from a supply warning
has reached, and the warning floor (13 R362, R368). -/
def Quarter.position (x : Quarter) : Nat := max (max x.ladder (if x.warned then x.recovery else 0)) (if x.floor then 1 else 0)

/-- The tclk of every 8 in which arrays and chains issue at a ladder position (13 R355). -/
def issueOf (pos : Nat) : Nat := if pos < 4 then 8 else 11 - pos

/-- The tclk of every 8 in which a tile's arrays and chain issue (13 R355, R356, R368). -/
def tileIssue (s : State) (t : Nat) : Nat := issueOf (quarterOf s (tileQuarter t)).position

/-- The stack position that a stack's memory controllers follow: the most restrictive of the quarter's ladder, 6 during a supply
warning, and 4, which is every second mclk, while the stack is Too hot or Critical (08 R232; 13 R357, R362, R368). -/
def stackPosition (s : State) (stack : Nat) : Nat :=
  let x := quarterOf s (stack / 4)
  max (max x.stackPos (if x.warned then 6 else 0)) (if SMap.get .normal s.mem.thermal stack = .normal then 0 else 4)

/-- The mclk of every 8 in which they issue (13 R357). -/
def stackIssue (s : State) (stack : Nat) : Nat := 8 - stackPosition s stack

/-- The divider of a tile (13 R350; the level-1 limit of 15 R409). -/
def tileDiv (s : State) (t : Nat) : Nat :=
  let q := quarterOf s (tileQuarter t)
  let fieldDiv := (fieldsOn s t).foldl (fun a f => max a (((fieldOf s f).map Field.div).getD 0)) 0
  let limit := if SMap.get 0 s.tiles.level t ≥ 1 then min 3 (fieldDiv + 1) else 0
  let early := match s.mgmt.service with
    | .early | .earlyHeld => 3
    | _ => 0
  max (max fieldDiv (ladderDiv q.position)) (max early limit)

/-! ### Records -/

/-- The last reading of a sensor: compute dies 0 to 3, base dies 4 to 7, stacks 8 to 23; 25 °C before the first (log 12). -/
def sensor (s : State) (i : Nat) : Int := SMap.get 25 s.power.temps i

/-- A record of a class and status about a quarter. -/
def mkFault (s : State) (cls : Nat) (status : Status) (quarter : Nat) : Fault16 :=
  { cls := cls, status := status, quarter := quarter, temp := sensor s (4 + quarter), sclk := s.power.sclk
    voffset := (quarterOf s quarter).offset }

/-- A record about a tile and a context of it (15 R396). -/
def tileFault (s : State) (cls : Nat) (status : Status) (tile ctx field : Nat) : Fault16 :=
  let q := tileQuarter tile
  let x := SMap.get {} s.tiles.ctxs (16 * tile + ctx)
  { cls := cls, status := status, quarter := q, temp := sensor s q, sclk := s.power.sclk
    voffset := (quarterOf s q).offset, tile := tile, ctx := ctx, field := field, step := x.step
    itemSeq := ((x.item.map itemSeqOf).getD 0), div := tileDiv s tile
    imageId := SMap.get 0 s.fields.imageIds field }
where
  itemSeqOf (w : BitVec 512) : BitVec 32 := BitVec.ofNat 32 (bits w.toNat 127 96)

/-- Whether a new record matches an earlier one written less than 1 s before (15 R399). -/
def Fault16.matches (new old : Fault16) : Bool :=
  new.cls == old.cls && new.unitClass == old.unitClass && new.quarter == old.quarter && new.tile == old.tile
    && new.unitIndex == old.unitIndex && new.status == old.status && decide (new.sclk < old.sclk + 100000000)

/-- The number of the latest record that a new one coalesces with. -/
def coalesceTarget (s : State) (r : Fault16) : Option Nat :=
  (((s.mgmt.log ++ s.mgmt.buffer).filter fun o => r.matches o).getLast?).bind fun o =>
    if o.count < 65535 then some o.number else none

/-- One more occurrence of record n. -/
def countFault (n : Nat) (l : List Fault16) : List Fault16 :=
  l.map fun o => if o.number = n then { o with count := o.count + 1 } else o

/-- Writes a record (15 R393, R399). -/
def logFault (s : State) (r : Fault16) : State :=
  match coalesceTarget s r with
  | some n => { s with mgmt := { s.mgmt with buffer := countFault n s.mgmt.buffer, log := countFault n s.mgmt.log } }
  | none =>
    if s.mgmt.buffer.length < 256 then
      { s with mgmt := { s.mgmt with
          buffer := s.mgmt.buffer ++ [{ r with number := s.mgmt.nextRecord }]
          nextRecord := s.mgmt.nextRecord + 1 } }
    else { s with mgmt := { s.mgmt with lostFaults := s.mgmt.lostFaults + 1 } }

/-- The record of an access refused or dropped: source 0 step, 1 RDMA, 2 Filub (01 R29; 15 R398 class 0x0B). -/
def refusedAccess (s : State) (source quarter addr : Nat) (status : Status) : State :=
  logFault s { mkFault s 0x0B status quarter with detail := BitVec.ofNat 512 source, addr := addr }

end Sys2Proof.Machine
end

