-- ==== Sys2Proof/Machine/Float.lean ====
section
/-! DEFINITION. Floating point (04 R112, R113, R116, R117, R125, R127): exact values, rounding, the FP32 operations and the
encodings of BF16, FP16, FP8 and FP4. -/
namespace Sys2Proof.Machine

/-- An exact floating-point value: NaN, an infinity, or (−1)^neg · m · 2^e. -/
inductive Fp where
  | nan
  | inf (neg : Bool)
  | fin (neg : Bool) (m : Nat) (e : Int)
  deriving DecidableEq, Repr

/-- The signed integer of a value m·2^e over 2^e0, e0 ≤ e. -/
def scaledInt (neg : Bool) (m : Nat) (e e0 : Int) : Int :=
  let v : Int := (m <<< (e - e0).toNat : Nat)
  if neg then -v else v

/-- The order of two values that are not NaN, −0 and +0 equal. -/
def Fp.cmp : Fp → Fp → Ordering
  | .inf a, .inf b => if a = b then .eq else if a then .lt else .gt
  | .inf a, _ => if a then .lt else .gt
  | _, .inf b => if b then .gt else .lt
  | .fin n1 m1 e1, .fin n2 m2 e2 =>
    let e0 := min e1 e2
    compare (scaledInt n1 m1 e1 e0) (scaledInt n2 m2 e2 e0)
  | _, _ => .eq

/-- The parameters of a floating-point format (04 R113): exponent and fraction bits, bias, the largest finite magnitude
code, the infinity code if any, the NaN the device writes if any, and whether a finite overflow saturates. -/
structure FloatFmt where
  eb    : Nat
  fb    : Nat
  bias  : Nat
  maxc  : Nat
  infc  : Option Nat
  nanc  : Option Nat
  sat   : Bool
  deriving DecidableEq, Repr

def fp32 : FloatFmt := ⟨8, 23, 127, 0x7F7FFFFF, some 0x7F800000, some 0x7FC00000, false⟩
def bf16 : FloatFmt := ⟨8, 7, 127, 0x7F7F, some 0x7F80, some 0x7FC0, false⟩
def fp16 : FloatFmt := ⟨5, 10, 15, 0x7BFF, some 0x7C00, some 0x7E00, false⟩
def e4m3 : FloatFmt := ⟨4, 3, 7, 0x7E, none, some 0x7F, true⟩
def e5m2 : FloatFmt := ⟨5, 2, 15, 0x7B, some 0x7C, some 0x7F, true⟩
def fp4 : FloatFmt := ⟨2, 1, 1, 0x7, none, none, true⟩

/-- The width of a format's code less its sign bit. -/
def FloatFmt.mag (f : FloatFmt) : Nat := f.eb + f.fb

/-- The value of a code (04 R113, R117). -/
def FloatFmt.decode (f : FloatFmt) (code : Nat) : Fp :=
  let neg := code.testBit f.mag
  let mag := code % 2 ^ f.mag
  if f.infc = some mag then .inf neg
  else if f.maxc < mag then .nan
  else
    let e := mag >>> f.fb
    let fr := mag % 2 ^ f.fb
    if e = 0 then .fin neg fr (1 - (f.bias : Int) - f.fb)
    else .fin neg (2 ^ f.fb + fr) ((e : Int) - f.bias - f.fb)

/-- Rounding modes (04 R125, R127); stochastic rounding carries the bits drawn. -/
inductive Round where
  | nearest
  | stochastic (r : Nat)
  deriving DecidableEq, Repr

/-- Whether num/den over a lower neighbour of parity `odd` rounds up. -/
def roundsUp (mode : Round) (odd : Bool) (r den : Nat) : Bool :=
  match mode with
  | .nearest => den < 2 * r || (2 * r == den && odd)
  | .stochastic s => s < 2 ^ 32 * r / den

/-- The integer part and up-decision of num/den. -/
def roundQuot (mode : Round) (num den : Nat) : Nat :=
  let k := num / den
  if roundsUp mode (k % 2 == 1) (num % den) den then k + 1 else k

/-- floor(log2 (n/d)) of positive n, d. -/
def log2Quot (n d : Nat) : Int :=
  let l : Int := (n.log2 : Int) - d.log2
  if l ≥ 0 then (if n < d <<< l.toNat then l - 1 else l)
  else (if n <<< (-l).toNat < d then l - 1 else l)

/-- The magnitude code of n/d · 2^e rounded to the format's precision with no upper bound on the exponent (04 R116 step
3). -/
def FloatFmt.roundMag (f : FloatFmt) (mode : Round) (n d : Nat) (e : Int) : Nat :=
  if n = 0 then 0 else
  let top := log2Quot n d + e
  let qmin : Int := 1 - (f.bias : Int) - f.fb
  if top < qmin - 40 then 0
  else if top > f.bias + 40 then 2 * 2 ^ f.mag
  else
    let q := max qmin (top - f.fb)
    let s := e - q
    let k := if s ≥ 0 then roundQuot mode (n <<< s.toNat) d else roundQuot mode n (d <<< (-s).toNat)
    (q - qmin).toNat * 2 ^ f.fb + k

/-- The code of a sign and a magnitude code. -/
def FloatFmt.signed (f : FloatFmt) (neg : Bool) (mag : Nat) : Nat := (if neg then 2 ^ f.mag else 0) + mag

/-- The result of converting ±n/d·2^e: the code and whether it saturated (04 R116 steps 3 to 5). A stochastic conversion has
d = 1, and over a saturating format's largest value it draws nothing (04 R127). -/
def FloatFmt.encode (f : FloatFmt) (mode : Round) (neg : Bool) (n d : Nat) (e : Int) : Nat × Bool :=
  let k := f.roundMag mode n d e
  let above := f.sat && mode != .nearest && (Fp.fin false n e).cmp (f.decode f.maxc) == .gt
  if above then (f.signed neg f.maxc, true)
  else if k ≤ f.maxc then (f.signed neg k, false)
  else if f.sat then (f.signed neg f.maxc, true)
  else (f.signed neg (f.infc.getD f.maxc), false)

/-- The FP32 pattern nearest to ±n/d·2^e (04 R112). -/
def rne (neg : Bool) (n d : Nat) (e : Int) : F32 := BitVec.ofNat 32 (fp32.encode .nearest neg n d e).1

/-- The canonical NaN (04 R112). -/
def f32NaN : F32 := 0x7FC00000
def f32Inf (neg : Bool) : F32 := if neg then 0xFF800000 else 0x7F800000
def f32Zero (neg : Bool) : F32 := if neg then 0x80000000 else 0
def f32One : F32 := 0x3F800000

/-- The value of an FP32 pattern. -/
def dec (x : F32) : Fp := fp32.decode x.toNat

/-- The FP32 pattern of an exact value, rounded (04 R112). -/
def Fp.rnd : Fp → F32
  | .nan => f32NaN
  | .inf n => f32Inf n
  | .fin n m e => if m = 0 then f32Zero n else rne n m 1 e

def Fp.isFinite : Fp → Bool
  | .fin _ _ _ => true
  | _ => false

def f32Finite (x : F32) : Bool := (dec x).isFinite

/-- The exact sum of two finite values; a zero sum has the sign given. -/
def finAdd (n1 : Bool) (m1 : Nat) (e1 : Int) (n2 : Bool) (m2 : Nat) (e2 : Int) : Fp :=
  if m1 = 0 ∧ m2 = 0 then .fin (n1 && n2) 0 0
  else
    let e0 := min e1 e2
    let v := scaledInt n1 m1 e1 e0 + scaledInt n2 m2 e2 e0
    if v = 0 then .fin false 0 0 else .fin (decide (v < 0)) v.natAbs e0

/-- The exact sum (04 R112). -/
def Fp.add : Fp → Fp → Fp
  | .nan, _ => .nan
  | _, .nan => .nan
  | .inf a, .inf b => if a = b then .inf a else .nan
  | .inf a, _ => .inf a
  | _, .inf b => .inf b
  | .fin n1 m1 e1, .fin n2 m2 e2 => finAdd n1 m1 e1 n2 m2 e2

/-- The exact product (04 R112). -/
def Fp.mul : Fp → Fp → Fp
  | .nan, _ => .nan
  | _, .nan => .nan
  | .inf a, .inf b => .inf (a != b)
  | .inf a, .fin n m _ => if m = 0 then .nan else .inf (a != n)
  | .fin n m _, .inf b => if m = 0 then .nan else .inf (n != b)
  | .fin n1 m1 e1, .fin n2 m2 e2 => .fin (n1 != n2) (m1 * m2) (e1 + e2)

def Fp.neg : Fp → Fp
  | .nan => .nan
  | .inf a => .inf (!a)
  | .fin n m e => .fin (!n) m e

def fadd (x y : F32) : F32 := ((dec x).add (dec y)).rnd
def fmul (x y : F32) : F32 := ((dec x).mul (dec y)).rnd
/-- X × Y + Z rounded once (07 R191). -/
def ffma (x y z : F32) : F32 := (((dec x).mul (dec y)).add (dec z)).rnd

/-- The sign change of 07 R191: a NaN gives the canonical NaN. -/
def fneg (x : F32) : F32 :=
  match dec x with
  | .nan => f32NaN
  | _ => x ^^^ 0x80000000
def fabs (x : F32) : F32 :=
  match dec x with
  | .nan => f32NaN
  | _ => x &&& 0x7FFFFFFF
def fsub (x y : F32) : F32 := fadd x (fneg y)

/-- x ÷ y rounded to nearest, ties to even (04 R121 step 1). -/
def fdiv (x y : F32) : F32 :=
  match dec x, dec y with
  | .nan, _ => f32NaN
  | _, .nan => f32NaN
  | .inf _, .inf _ => f32NaN
  | .inf a, .fin n _ _ => f32Inf (a != n)
  | .fin n _ _, .inf b => f32Zero (n != b)
  | .fin n1 m1 e1, .fin n2 m2 e2 =>
    if m2 = 0 then (if m1 = 0 then f32NaN else f32Inf (n1 != n2))
    else if m1 = 0 then f32Zero (n1 != n2)
    else rne (n1 != n2) m1 m2 (e1 - e2)

def isNaN (x : F32) : Bool := dec x = .nan

/-- x < y of FP32; false with a NaN. -/
def flt (x y : F32) : Bool := !isNaN x && !isNaN y && (dec x).cmp (dec y) == .lt
def feq (x y : F32) : Bool := !isNaN x && !isNaN y && (dec x).cmp (dec y) == .eq

/-- MIN (07 R191): −0 is smaller than +0; NaN wins. -/
def fmin (x y : F32) : F32 :=
  if isNaN x || isNaN y then f32NaN
  else if flt x y then x else if flt y x then y else if x.msb then x else y
/-- MAX (07 R191): +0 is larger than −0; NaN wins. -/
def fmax (x y : F32) : F32 :=
  if isNaN x || isNaN y then f32NaN
  else if flt x y then y else if flt y x then x else if x.msb then y else x

/-- FP32 of an integer, rounded (07 R183). -/
def f32OfInt (i : Int) : F32 := if i = 0 then 0 else rne (decide (i < 0)) i.natAbs 1 0

/-- floor of |value| and the remainder over den = 2^(-e): value = ±(k + r/den). -/
def splitInt (m : Nat) (e : Int) : Nat × Nat × Nat :=
  if e ≥ 0 then (m <<< e.toNat, 0, 1)
  else
    let den := 2 ^ (-e).toNat
    (m / den, m % den, den)

/-- A finite value rounded to an integer in the mode given (04 R121 step 2, R125, R127): the magnitude lies between
floor(|y|) and floor(|y|) + 1. -/
def roundInt (mode : Round) (neg : Bool) (m : Nat) (e : Int) : Int :=
  let (k, r, den) := splitInt m e
  let k' : Nat := if roundsUp mode (k % 2 == 1) r den then k + 1 else k
  if neg then -(k' : Int) else k'

/-- The largest integer not above a finite value. -/
def floorInt (neg : Bool) (m : Nat) (e : Int) : Int :=
  let (k, r, _) := splitInt m e
  if neg then (if r = 0 then -(k : Int) else -(k : Int) - 1) else k

/-- FLOOR (07 R191), keeping infinities and the sign of zero. -/
def ffloor (x : F32) : F32 :=
  match dec x with
  | .nan => f32NaN
  | .inf a => f32Inf a
  | .fin n m e =>
    let v := floorInt n m e
    if v = 0 then f32Zero n else f32OfInt v

/-- 2^k as FP32. -/
def f32Pow2 (k : Int) : F32 := rne false 1 1 k

/-- BF16 rounded towards +∞ of an FP32 that is neither negative nor NaN (06 R172, R173). -/
def bf16Up (x : F32) : BitVec 16 :=
  BitVec.ofNat 16 (if x.toNat % 65536 = 0 then x.toNat / 65536 else x.toNat / 65536 + 1)

/-- FP32 of a BF16 code: decoded exactly (04 R117). -/
def f32OfBf16 (h : BitVec 16) : F32 := (bf16.decode h.toNat).rnd

/-- BF16 of an FP32 value, to nearest (04 R116). -/
def bf16Of (x : F32) : BitVec 16 :=
  match dec x with
  | .nan => 0x7FC0
  | .inf n => if n then 0xFF80 else 0x7F80
  | .fin n m e => BitVec.ofNat 16 (bf16.encode .nearest n m 1 e).1

/-- srbits (04 R129). -/
def srbits (seed step tid : BitVec 32) (e : Nat) : BitVec 32 :=
  let k1 : BitVec 32 := 0x9E3779B9
  let round := fun (ab : BitVec 32 × BitVec 32) (k : BitVec 32) (n : Nat) =>
    let a := ab.1 + ab.2 + k
    (a, (ab.2.rotateLeft n) ^^^ a)
  let a0 : BitVec 32 := BitVec.ofNat 32 e
  let b0 : BitVec 32 := BitVec.ofNat 32 (e / 2 ^ 32) ^^^ tid
  let s := round (round (round (round (a0, b0) seed 7) step 9) (seed ^^^ k1) 13) (step ^^^ k1) 18
  s.1 + s.2

end Sys2Proof.Machine
end

