-- ==== Sys2Proof/Machine/Formats.lean ====
section
/-! DEFINITION. Element formats (04 R109 to R121), their codes and conversions, and the computed scales (06 R172). -/
namespace Sys2Proof.Machine

/-- The formats of 04 R109. -/
inductive Fmt where
  | none | bf16 | fp16 | e4m3 | e5m2 | int8 | fp4 | int4 | int2 | ternary | uint8 | int16 | int32 | hi16 | lo16
  deriving DecidableEq, Repr

/-- The format of a code; reserved codes have none (04 R109). -/
def Fmt.ofCode : Nat → Option Fmt
  | 0x00 => some .none | 0x01 => some .bf16 | 0x02 => some .fp16 | 0x03 => some .e4m3 | 0x04 => some .e5m2
  | 0x05 => some .int8 | 0x06 => some .fp4 | 0x07 => some .int4 | 0x08 => some .int2 | 0x09 => some .ternary
  | 0x0A => some .uint8 | 0x0B => some .int16 | 0x0C => some .int32 | 0x11 => some .hi16 | 0x12 => some .lo16
  | _ => Option.none

/-- Bits per element; an element of format 0x00 is a 64-byte item (04 R109). -/
def Fmt.width : Fmt → Nat
  | .none => 512 | .int32 => 32
  | .bf16 | .fp16 | .int16 | .hi16 | .lo16 => 16
  | .e4m3 | .e5m2 | .int8 | .uint8 => 8
  | .fp4 | .int4 => 4
  | .int2 | .ternary => 2

/-- GROUP values accepted: lowest and highest (04 R109). -/
def Fmt.groupRange : Fmt → Nat × Nat
  | .e4m3 | .e5m2 | .int8 | .uint8 => (0, 4)
  | .fp4 | .int4 | .int2 | .ternary => (1, 4)
  | _ => (0, 0)

/-- Whether an ASYM value is accepted (04 R109). -/
def Fmt.asymOk (f : Fmt) (asym : Bool) : Bool :=
  match f with
  | .int4 | .int2 => asym
  | .uint8 => true
  | _ => !asym

/-- The capability bit that gates a format, none when it is always present (04 R109; 02 R56). -/
def Fmt.capBit : Fmt → Option Nat
  | .e4m3 | .e5m2 => some 24
  | .int8 | .uint8 => some 25
  | .fp4 | .int4 => some 26
  | .int2 | .ternary => some 27
  | _ => Option.none

/-- The floating-point format, where it is one (04 R113). -/
def Fmt.float : Fmt → Option FloatFmt
  | .bf16 => some Machine.bf16 | .fp16 => some Machine.fp16 | .e4m3 => some Machine.e4m3
  | .e5m2 => some Machine.e5m2 | .fp4 => some Machine.fp4 | _ => Option.none

/-- The largest zero point of a format with zero points (04 R120). -/
def Fmt.zeroMax : Fmt → Nat
  | .int4 => 15 | .int2 => 3 | _ => 255

/-- Whether the format is unsigned with a zero point (04 R118). -/
def Fmt.unsigned : Fmt → Bool
  | .uint8 | .int4 | .int2 => true
  | _ => false

/-- The codes that a conversion into an integer format produces, before z is subtracted (04 R118). -/
def Fmt.intRange : Fmt → Int × Int
  | .int8 => (-127, 127) | .uint8 => (0, 255) | .int4 => (0, 15) | .int2 => (0, 3) | .ternary => (-1, 1)
  | .int16 => (-32768, 32767) | .int32 => (-2147483648, 2147483647)
  | _ => (0, 0)

/-- The integer that a stored code of an integer format reads as (04 R118). -/
def Fmt.intOf (f : Fmt) (code : Nat) : Int :=
  match f with
  | .int8 => toSigned 8 code
  | .int16 => toSigned 16 code
  | .int32 => toSigned 32 code
  | .ternary => if code = 1 then 1 else if code = 3 then -1 else 0
  | _ => code

/-- The decoded code value: the floating-point value, or c − z (04 R117, R120; 06 R168). HI16 reads as BF16 (04 R123). -/
def Fmt.value (f : Fmt) (code z : Nat) : F32 :=
  match f.float with
  | some ff => (ff.decode code).rnd
  | Option.none => if f = .hi16 then f32OfBf16 (BitVec.ofNat 16 code) else f32OfInt (f.intOf code - z)

/-- The value of an element under its scale and zero point (04 R120). -/
def Fmt.element (f : Fmt) (code : Nat) (s : F32) (z : Nat) : F32 := fmul s (f.value code z)

/-- What a conversion gives: the code; whether a finite source saturated; whether the element is a non-finite event (04
R121); y of step 1. -/
structure Conv where
  code  : Nat
  sat   : Bool
  event : Bool
  y     : F32
  deriving DecidableEq, Repr

/-- The code that ±∞ takes in a format without infinities (04 R121). -/
def Fmt.infCode (f : Fmt) (neg : Bool) : Nat :=
  match f.float with
  | some ff =>
    match ff.infc with
    | some c => ff.signed neg c
    | Option.none => match ff.nanc with
      | some c => c
      | Option.none => ff.signed neg ff.maxc
  | Option.none => ofSigned f.width (if neg then f.intRange.1 else f.intRange.2)

/-- The code that NaN takes (04 R116, R121). -/
def Fmt.nanCode (f : Fmt) (z : Nat) : Nat :=
  match f.float with
  | some ff => ff.nanc.getD 0
  | Option.none => if f.unsigned then z else 0

/-- Whether a code of a floating-point format is NaN or infinite. -/
def Fmt.codeNonfinite (f : Fmt) (code : Nat) : Bool :=
  match f.float with
  | some ff => !(ff.decode code).isFinite
  | Option.none => false

/-- The zero code of a format (04 R122). -/
def Fmt.zeroCode (f : Fmt) (z : Nat) : Nat := if f.unsigned then z else 0

/-- Conversion of x into a format under a scale and a zero point (04 R116, R121; 07 R194). A finite x whose y
is infinite saturates; a y that is NaN does not (05 R145; 06 R175). -/
def Fmt.convert (f : Fmt) (mode : Round) (x s : F32) (z : Nat) : Conv :=
  let y := fdiv x s
  let xf := f32Finite x
  match dec y with
  | .nan =>
    { code := f.nanCode z, sat := false, event := true, y := y }
  | .inf n =>
    { code := f.infCode n, sat := xf, event := true, y := y }
  | .fin n m e =>
    match f.float with
    | some ff =>
      let (code, sat) := ff.encode mode n m 1 e
      { code := code, sat := sat, event := !xf || f.codeNonfinite code, y := y }
    | Option.none =>
      let c := roundInt mode n m e + z
      let (lo, hi) := f.intRange
      { code := ofSigned f.width (clampInt lo hi c), sat := decide (c < lo ∨ hi < c), event := !xf, y := y }

/-- The formats that the matrix array tests for overflow (06 R175). -/
def Fmt.overflows : Fmt → Bool
  | .e4m3 | .e5m2 | .int8 | .fp4 | .int4 => true
  | _ => false

/-- Whether a kind's conversions round stochastically (04 R126). -/
def kindStochastic (kind : Nat) : Bool := kind == 2 || kind == 3 || kind == 6

/-- The reference magnitude of a computed scale (06 R172). -/
def Fmt.qmax : Fmt → Int
  | .e4m3 => 448 | .e5m2 => 57344 | .fp4 => 6 | .int8 => 127 | .uint8 => 127 | .int4 => 7 | _ => 1

/-- The zero point that MODE 1 and 2 write (06 R172). -/
def Fmt.recipeZero : Fmt → Nat
  | .uint8 => 128 | .int4 => 8 | .int2 => 2 | _ => 0

/-- The BF16 code of 2^k, clamped to the scales' range (06 R172). -/
def bf16Pow2 (k : Int) : BitVec 16 :=
  if 127 < k then 0x7F7F
  else if k < -133 then 1
  else BitVec.ofNat 16 (bf16.encode .nearest false 1 1 k).1

/-- A scale computed from a magnitude (06 R172). -/
def computedScale (f : Fmt) (r : Recipe) (a : F32) : BitVec 16 :=
  if a.toNat % 2 ^ 31 = 0 then 0x3F80
  else
    let t := fdiv (fmul a (f32Pow2 r.margin)) (f32OfInt f.qmax)
    if r.pow2 then
      match dec t with
      | .fin _ m e => if m = 0 then 1 else bf16Pow2 (e + (if 2 ^ m.log2 = m then m.log2 else m.log2 + 1 : Nat))
      | _ => 0x7F7F
    else
      BitVec.ofNat 16 (clampInt 1 0x7F7F (bf16Up t).toNat).toNat

/-- GROUP 2 to 4 as a group length (03 R88). -/
def groupLen : Nat → Nat
  | 2 => 32 | 3 => 64 | 4 => 128 | _ => 0

end Sys2Proof.Machine
end

