-- ==== Sys2Proof/Machine/Operands.lean ====
section
/-! DEFINITION. Operand forms: the step word (03 R74), tensor descriptors and their element addresses (03 R85 to R87; 08
R215, R216), scale-group descriptors (03 R88, R89), statistics records (06 R166) and work items (03 R91). -/
namespace Sys2Proof.Machine

/-! ### Step words (03 R74) -/

def stepClass (w : BitVec 128) : Nat := bits w.toNat 127 122
def stepOp (w : BitVec 128) : Nat := bits w.toNat 121 114
def stepUnit (w : BitVec 128) : Nat := bits w.toNat 113 110
def stepHi (w : BitVec 128) : Nat := bits w.toNat 109 96
def stepLo (w : BitVec 128) : Nat := bits w.toNat 95 64
def stepCount (w : BitVec 128) : Nat := bits w.toNat 109 64
def stepA (w : BitVec 128) : Nat := bits w.toNat 63 48
def stepB (w : BitVec 128) : Nat := bits w.toNat 47 32
def stepD (w : BitVec 128) : Nat := bits w.toNat 31 16
def stepLoopEnd (w : BitVec 128) : Bool := bit w.toNat 15
def stepLoopNo (w : BitVec 128) : Nat := bits w.toNat 13 12
def stepNext (w : BitVec 128) : Nat := bits w.toNat 11 0

/-! ### Tensor descriptors (03 R85, R86) -/

/-- Coordinates of an element, dimension 0 first. -/
structure Pos where
  i0 : Nat
  i1 : Nat
  i2 : Nat
  i3 : Nat
  deriving DecidableEq, Repr

def Pos.add (p q : Pos) : Pos := ⟨p.i0 + q.i0, p.i1 + q.i1, p.i2 + q.i2, p.i3 + q.i3⟩
def Pos.zero : Pos := ⟨0, 0, 0, 0⟩

/-- A tensor descriptor's fields (03 R85). Dimensions at or above the rank have extent 1 here. -/
structure Desc where
  base      : Nat
  fmtCode   : Nat
  layout    : Nat
  rank      : Nat
  ext       : Pos
  s1        : Nat
  s2        : Nat
  s3        : Nat
  scaleSlot : Nat
  kind      : Nat
  gen       : Nat
  /-- A reserved field is nonzero (03 R85, R86). -/
  reserved  : Bool
  deriving DecidableEq, Repr

/-- A descriptor from its 32 bytes (03 R85). -/
def Desc.parse (bs : List Byte) : Desc :=
  let x := leNat bs
  let rank := bits x 51 50 + 1
  let e1 := bits x 91 72
  let e2 := bits x 111 92
  let e3 := bits x 131 112
  let s1 := bits x 155 132
  let s2 := bits x 179 156
  let s3 := bits x 203 180
  { base := bits x 41 0, fmtCode := bits x 47 42, layout := bits x 49 48, rank := rank
    ext := ⟨bits x 71 52, if rank ≥ 2 then e1 else 1, if rank ≥ 3 then e2 else 1, if rank ≥ 4 then e3 else 1⟩
    s1 := if rank ≥ 2 then s1 else 0, s2 := if rank ≥ 3 then s2 else 0, s3 := if rank ≥ 4 then s3 else 0
    scaleSlot := bits x 219 204, kind := bits x 222 220, gen := bits x 255 224
    reserved := bit x 223
      || (rank < 2 && (e1 != 0 || s1 != 0)) || (rank < 3 && (e2 != 0 || s2 != 0))
      || (rank < 4 && (e3 != 0 || s3 != 0)) }

/-- The format; the reserved codes read as 0x00 and are refused by Desc.conds. -/
def Desc.fmt (d : Desc) : Fmt := (Fmt.ofCode d.fmtCode).getD .none

/-- Elements of the whole tensor. -/
def Desc.total (d : Desc) : Nat := d.ext.i0 * d.ext.i1 * d.ext.i2 * d.ext.i3

/-- The element index (03 R87). -/
def Desc.index (d : Desc) (p : Pos) : Nat := p.i0 + d.ext.i0 * (p.i1 + d.ext.i1 * (p.i2 + d.ext.i2 * p.i3))

/-- The coordinates of an element index (03 R87). -/
def Desc.pos (d : Desc) (e : Nat) : Pos :=
  ⟨e % d.ext.i0, e / d.ext.i0 % d.ext.i1, e / (d.ext.i0 * d.ext.i1) % d.ext.i2,
    e / (d.ext.i0 * d.ext.i1 * d.ext.i2)⟩

/-- Whether an element lies within the extents. -/
def Desc.within (d : Desc) (p : Pos) : Bool :=
  p.i0 < d.ext.i0 && p.i1 < d.ext.i1 && p.i2 < d.ext.i2 && p.i3 < d.ext.i3

/-- The bit address of an element: eight times its byte address, and its place in the byte (03 R86; 04 R119; 08 R215,
R216). -/
def Desc.bitAddr (d : Desc) (p : Pos) : Nat :=
  let w := d.fmt.width
  if d.layout = 0 then d.base * 8 + w * (p.i0 + d.s1 * p.i1 + d.s2 * p.i2 + d.s3 * p.i3)
  else
    let (c, r) := if d.layout = 2 then (p.i1, p.i0) else (p.i0, p.i1)
    let bale := c / 32 + d.s1 * (r / 32) + d.s2 * p.i2 + d.s3 * p.i3
    d.base * 8 + w * (1024 * bale + 32 * (r % 32) + c % 32)

/-- Whether the formats of bale layouts hold this one (08 R215). -/
def Fmt.baleOk (f : Fmt) : Bool := f != .none && f != .int32

/-- The conditions of 03 R86, R90 and 04 R119 on a descriptor, given the capability word, the formats the unit accepts in
the role and the item's origin. -/
def Desc.conds (d : Desc) (cap : Nat) (accepts : Fmt → Bool) (origin : Pos) : List (Bool × Status) :=
  [ (d.reserved || d.layout == 3 || (Fmt.ofCode d.fmtCode).isNone, .reserved),
    ((d.fmt.capBit.map fun b => !bit cap b).getD false, .capability),
    (!accepts d.fmt, .range),
    (d.layout != 0 && (d.rank < 2 || !d.fmt.baleOk || d.base % (128 * d.fmt.width) != 0
      || origin.i0 % 32 != 0 || origin.i1 % 32 != 0), .range),
    (d.layout == 0 && d.fmt.width < 8 && (d.s1 * d.fmt.width % 8 != 0 || d.s2 * d.fmt.width % 8 != 0
      || d.s3 * d.fmt.width % 8 != 0), .range) ]

/-! ### Scale-group descriptors (03 R88, R89) -/

/-- A scale-group descriptor's fields. -/
structure Scale where
  group    : Nat
  asym     : Bool
  axis     : Nat
  base     : Nat
  zero     : Nat
  statSlot : Nat
  tensorId : BitVec 32
  reserved : Bool
  deriving DecidableEq, Repr

/-- What a SCALE_DESC of 0xFFFF stands for (03 R87; 04 R109). -/
def Scale.absent : Scale := ⟨0, false, 0, 0, 0, 0xFFFF, 0, false⟩

def Scale.parse (bs : List Byte) : Scale :=
  let x := leNat bs
  { group := bits x 2 0, asym := bit x 3, axis := bits x 5 4, base := bits x 105 64, zero := bits x 147 106
    statSlot := bits x 223 208, tensorId := BitVec.ofNat 32 (bits x 255 224)
    reserved := bits x 63 6 != 0 || bits x 207 148 != 0 || bits x 2 0 > 4 }

/-- The group of an element (03 R89): one group per tensor for GROUP 0 and 1. -/
def Scale.groupIndex (sg : Scale) (d : Desc) (p : Pos) : Nat :=
  if sg.group < 2 then 0
  else
    let g := groupLen sg.group
    let e := d.ext
    match sg.axis with
    | 0 => p.i0 / g + ceilDiv e.i0 g * (p.i1 + e.i1 * (p.i2 + e.i2 * p.i3))
    | 1 => p.i0 + e.i0 * (p.i1 / g + ceilDiv e.i1 g * (p.i2 + e.i2 * p.i3))
    | 2 => p.i0 + e.i0 * (p.i1 + e.i1 * (p.i2 / g + ceilDiv e.i2 g * p.i3))
    | _ => p.i0 + e.i0 * (p.i1 + e.i1 * (p.i2 + e.i2 * (p.i3 / g)))

/-- GROUP and ASYM accepted by the format (04 R109). -/
def Scale.conds (sg : Scale) (f : Fmt) : List (Bool × Status) :=
  [ (sg.reserved, .reserved),
    (sg.group < f.groupRange.1 || f.groupRange.2 < sg.group || !f.asymOk sg.asym, .range) ]

/-! ### Statistics records (06 R166) -/

structure StatRec where
  tensorBase : Nat
  mode       : Nat
  groupBase  : Nat
  histBase   : Nat
  spillBase  : Nat
  reserved   : Bool
  deriving DecidableEq, Repr

def StatRec.parse (bs : List Byte) : StatRec :=
  let x := leNat bs
  { tensorBase := bits x 41 0, mode := bits x 49 48, groupBase := bits x 105 64, histBase := bits x 169 128
    spillBase := bits x 233 192
    reserved := bits x 47 42 != 0 || bits x 63 50 != 0 || bits x 127 106 != 0 || bits x 191 170 != 0
      || bits x 255 234 != 0 || bits x 49 48 == 3 }

/-- Alignment and presence of the record's addresses (06 R166). -/
def StatRec.conds (r : StatRec) : List (Bool × Status) :=
  [ (r.reserved, .reserved),
    (r.tensorBase % 64 != 0 || r.groupBase % 8 != 0 || r.histBase % 2 != 0 || r.spillBase % 256 != 0
      || (r.mode == 1 && (r.tensorBase == 0 || r.histBase == 0)), .range) ]

/-- MODE against GROUP and ASYM (06 R171). -/
def StatRec.modeConds (r : StatRec) (sg : Scale) (f : Fmt) : List (Bool × Status) :=
  [ (r.mode == 1 && sg.group != 1, .range), (r.mode == 2 && sg.group < 2, .range),
    (r.mode != 0 && f.unsigned && !sg.asym, .range) ]

/-! ### Work items (03 R91) -/

def itemEntry (w : BitVec 512) : Nat := bits w.toNat 11 0
def itemAffinity (w : BitVec 512) : Bool := bit w.toNat 13
def itemDeferred (w : BitVec 512) : Bool := bit w.toNat 14
def itemValid (w : BitVec 512) : Bool := bit w.toNat 15
def itemDoneEn (w : BitVec 512) : Bool := bit w.toNat 35
def itemDoneWord (w : BitVec 512) : Nat := bits w.toNat 47 36
def itemDoneQuarter (w : BitVec 512) : Nat := bits w.toNat 49 48
def itemSeq (w : BitVec 512) : BitVec 32 := BitVec.ofNat 32 (bits w.toNat 127 96)
def itemArg (w : BitVec 512) : BitVec 32 := BitVec.ofNat 32 (bits w.toNat 159 128)
/-- Reserved bits of an item (03 R91). -/
def itemReserved (w : BitVec 512) : Bool :=
  bit w.toNat 12 || bits w.toNat 34 16 != 0 || bits w.toNat 95 50 != 0 || bits w.toNat 511 400 != 0

/-- The origins at a bit offset of an item. -/
def itemOrigin (w : BitVec 512) (lo : Nat) : Pos :=
  let f := fun j => bits w.toNat (lo + 20 * j + 19) (lo + 20 * j)
  ⟨f 0, f 1, f 2, f 3⟩

def itemA (w : BitVec 512) : Pos := itemOrigin w 160
def itemB (w : BitVec 512) : Pos := itemOrigin w 240
def itemD (w : BitVec 512) : Pos := itemOrigin w 320

end Sys2Proof.Machine
end

