-- ==== Sys2Proof/Machine/Access.lean ====
section
/-! DEFINITION. Reading and writing memory: the canonical form (01 R27), the 144/128 code and poison (09 R236, R239 to R241),
lofts and invalidation logs (08 R221 to R225), channel counters (08 R231), and the checks on an access (01 R29, R33; 03 R69;
08 R233; 13 R366; 15 R411). -/
namespace Sys2Proof.Machine

/-! ### Bytes (log 4) -/

/-- What an unlisted address reads as: zero in a zeroed scratchpad bank, otherwise no value. -/
def Bytes.unlisted (b : Bytes) (a : Nat) : Option Byte :=
  if scratchBase ≤ a ∧ b.zeroed.contains ((a - scratchBase) / 0x20000) then some 0 else none

/-- The byte listed at an address. -/
def cellAt : List Host.Cell → Nat → Option Byte
  | [], _ => none
  | (k, v) :: cs, a => if k = a then some v else cellAt cs a

/-- The list without address a. -/
def cellErase (cs : List Host.Cell) (a : Nat) : List Host.Cell := cs.filter fun c => c.1 != a

/-- The list with v at address a. -/
def cellSet : List Host.Cell → Nat → Byte → List Host.Cell
  | [], a, v => [(a, v)]
  | (k, w) :: cs, a, v =>
    if k = a then (a, v) :: cs else if a < k then (a, v) :: (k, w) :: cs else (k, w) :: cellSet cs a v

/-- One byte read: a byte with no value reads as a free value of the era (log 4). -/
def Bytes.read (b : Bytes) (a : Nat) : Byte :=
  match cellAt b.cells a with
  | some v => v
  | none => (b.unlisted a).getD (Config.freeByte b.era a)

/-- One byte written, keeping the canonical form. -/
def Bytes.write (b : Bytes) (a : Nat) (v : Byte) : Bytes :=
  { b with cells := if b.unlisted a = some v then cellErase b.cells a else cellSet b.cells a v }

/-- A run of bytes written. -/
def Bytes.writeRun (b : Bytes) (a : Nat) : List Byte → Bytes
  | [] => b
  | v :: vs => Bytes.writeRun (b.write a v) (a + 1) vs

/-- Addresses strictly rising. -/
def cellsSorted : List Host.Cell → Bool
  | [] => true
  | [_] => true
  | (a, _) :: (b, w) :: cs => decide (a < b) && cellsSorted ((b, w) :: cs)

/-- The canonical form of memory. -/
def Bytes.wf (b : Bytes) : Bool := cellsSorted b.cells && b.cells.all fun c => b.unlisted c.1 != some c.2

/-- Removes what memory lists from lo to hi − 1. -/
def Bytes.drop (b : Bytes) (lo hi : Nat) : Bytes := { b with cells := b.cells.filter fun c => c.1 < lo || hi ≤ c.1 }

/-- A scratchpad bank zeroed (02 R61; 15 R413): bank index 8·tile + bank. -/
def Bytes.zeroBank (b : Bytes) (bank : Nat) : Bytes :=
  let b := b.drop (scratchBase + 0x20000 * bank) (scratchBase + 0x20000 * bank + 0x20000)
  { b with zeroed := if b.zeroed.contains bank then b.zeroed else bank :: b.zeroed }

/-! ### Words (09 R235, R236) -/

/-- The 128 data bits of word w as memory lists them. -/
def wordBits (s : State) (w : Nat) : Nat := leNat ((rangeFrom (16 * w) 16).map s.mem.bytes.read)

/-- What reading a word finds: its data after correction, what the decoder did, the syndrome, whether it is poisoned. -/
structure WordRead where
  data     : Nat
  fixed    : Bool
  bad      : Bool
  synd     : Nat
  poisoned : Bool
  deriving DecidableEq, Repr

/-- Check flips of a poisoned word (09 R241). -/
def poisonFlips : BitVec 144 := BitVec.ofNat 144 (0xFFFF * 2 ^ 128)

/-- What the decoder makes of data d stored with flips (09 R236). The syndrome is that of the flips, because the code is linear. -/
def decodeFlips (d : Nat) (fl : BitVec 144) : WordRead :=
  if fl = 0 then ⟨d, false, false, 0, false⟩
  else
    let df := fl.toNat % 2 ^ 128
    let synd := syndrome df (fl.toNat / 2 ^ 128)
    let raw := d ^^^ df
    match eccDecide synd with
    | .clean => ⟨raw, false, false, 0, false⟩
    | .data j v => ⟨raw ^^^ (v <<< (4 * j)), true, false, synd, false⟩
    | .check _ _ => ⟨raw, true, false, synd, false⟩
    | .uncorrectable => ⟨raw, false, true, synd, synd == 0x1FFF⟩

/-- Reading word w through the decoder (09 R236). -/
def readWord (s : State) (w : Nat) : WordRead := decodeFlips (wordBits s w) (SMap.get 0 s.mem.flips w)

/-- Whether a loft holds a granule's line. -/
def Loft.holds (l : Loft) (gran : Nat) : Bool := l.lines.any fun x => x.1 == gran

/-- Whether a line held has an uncorrectable word, so that a hit drops it (09 R239). -/
def Loft.spoilt (l : Loft) (gran : Nat) : Bool := l.flips.any fun x => x.1 / 16 == gran && (decodeFlips 0 x.2).bad

/-- The bytes of a line as a hit delivers them, corrected. -/
def Loft.corrected (l : Loft) (gran : Nat) (bs : List Byte) : List Byte :=
  if l.flips.isEmpty then bs
  else (List.range 16).flatMap fun i =>
    leBytes 16 (decodeFlips (leNat (slice bs (16 * i) 16)) (SMap.get 0 l.flips (16 * gran + i))).data

/-- The line of a loft that serves a read of an address: it is held, and no word of it is uncorrectable. -/
def loftLine (s : State) (q : Option Nat) (a : Nat) : Option (List Byte) :=
  q.bind fun q =>
    let l := SMap.get {} s.mem.lofts q
    if l.spoilt (a / 256) then none else (l.lines.find? fun x => x.1 == a / 256).map fun x => l.corrected (a / 256) x.2

/-- A byte as a reader sees it: through a quarter's loft, or at the home (08 R221). -/
def seeByte (s : State) (loft : Option Nat) (a : Nat) : Byte :=
  match place s a with
  | .stack =>
    match loftLine s loft a with
    | some line => line.getD (a % 256) 0
    | none => if SMap.get 0 s.mem.flips (a / 16) = 0 then s.mem.bytes.read a else blockByte (readWord s (a / 16)).data (a % 16)
  | .pad _ _ =>
    if SMap.get 0 s.mem.flips (a / 16) = 0 then s.mem.bytes.read a else blockByte (readWord s (a / 16)).data (a % 16)
  | .package off => packageByte s off
  | .quarter q off => quarterByte s q off
  | .reserved => 0

/-- A run of bytes as a reader sees it. -/
def seeBytes (s : State) (loft : Option Nat) (a n : Nat) : List Byte := (rangeFrom a n).map (seeByte s loft)

/-- The granules that a run touches. -/
def granules (a n : Nat) : List Nat := if n = 0 then [] else rangeFrom (a / 256) ((a + n - 1) / 256 + 1 - a / 256)

/-! ### Lofts and channels -/

def loftOf (s : State) (q : Nat) : Loft := SMap.get {} s.mem.lofts q
def setLoft (s : State) (q : Nat) (l : Loft) : State := { s with mem := { s.mem with lofts := SMap.set {} s.mem.lofts q l } }

/-- A loft told to give up a line: the line goes, a fill of it is marked (08 R222, R224). -/
def Loft.forget (l : Loft) (line : Nat) : Loft :=
  { l with lines := l.lines.filter fun x => x.1 != line
           fills := l.fills.map fun f => if f.line = line then { f with marked := true } else f }

/-- An invalidation counted by a fence or from outside (08 R223, R225, R227). -/
def Loft.invalidate (l : Loft) (external : Bool) (line : Nat) : Loft :=
  let held := l.lines.any fun x => x.1 == line
  let l := l.forget line
  if !held then l
  else if external then { l with invExt := wrapAdd 64 l.invExt 1 } else { l with invFence := wrapAdd 64 l.invFence 1 }

/-- A request in a channel's queue (08 R231): how deep it finds the queue and how long it takes are free (log 3). -/
def Channel.queued (fresh c : Nat) (ch : Channel) : Channel :=
  let f := fun k => Config.freeBits k (((fresh * 2 ^ 64 + ch.writes) * 2 ^ 64 + ch.reads) * 512 + c)
  let depth := 1 + f 2 % 64
  { ch with queueNow := depth, queueHigh := max ch.queueHigh depth
            busy := wrapAdd 64 ch.busy (f 3 + 1), full := wrapAdd 64 ch.full (if depth = 64 then f 4 % (f 3 + 2) else 0) }

/-- A channel's counters moved (08 R231). -/
def countRead (s : State) (gran : Nat) : State :=
  let c := (placement s gran).1
  { s with mem := { s.mem with channels := SMap.modify {} s.mem.channels c fun ch =>
        { ch.queued s.fresh c with reads := wrapAdd 64 ch.reads 1 } } }
def countWrite (s : State) (gran : Nat) : State :=
  let c := (placement s gran).1
  { s with mem := { s.mem with channels := SMap.modify {} s.mem.channels c fun ch =>
        { ch.queued s.fresh c with writes := wrapAdd 64 ch.writes 1 } } }

/-- A line found uncorrectable is dropped; three drops disable its way of its set until power-on reset (09 R239). -/
def Loft.dropSpoilt (l : Loft) (gran : Nat) : Loft :=
  let p := SMap.get 0 l.places gran
  let n := SMap.get 0 l.drops p + 1
  { l with lines := l.lines.filter fun x => x.1 != gran
           drops := SMap.set 0 l.drops p (if 3 ≤ n then 0 else n)
           disabled := if 3 ≤ n then p :: l.disabled else l.disabled }

/-- Whether a read of a granule misses quarter q's loft and asks for a fill of its line (08 R221, R224). -/
def asksFill (s : State) (q : Option Nat) (look install : Bool) (gran : Nat) : Bool :=
  match q with
  | none => false
  | some q =>
    look && install && decide ((placement s gran).1 / 128 ≠ q) && !(loftOf s q).holds gran
      && !((loftOf s q).fills.any fun f => f.line == gran)

/-- A granule read through a loft: look-up, hit, miss, and the fill that an installing read asks for (08 R221, R224; 09
R239). `look` is false for the reads that never look in the loft. -/
def touchGranule (s : State) (q : Option Nat) (look install : Bool) (gran : Nat) : State :=
  match q with
  | none => countRead s gran
  | some q =>
    if !look || (placement s gran).1 / 128 = q then countRead s gran
    else
      let l := loftOf s q
      let l := { l with lookups := wrapAdd 64 l.lookups 1 }
      if l.holds gran then
        let l := { l with hits := wrapAdd 64 l.hits 1 }
        if l.spoilt gran then countRead (setLoft s q (l.dropSpoilt gran)) gran else setLoft s q l
      else if asksFill s (some q) look install gran && (rangeFrom (gran * 16) 16).all fun w => !(readWord s w).bad then
        setLoft (countRead s gran) q { l with fills := l.fills ++ [⟨gran, (rangeFrom (256 * gran) 256).map (seeByte s none), false⟩] }
      else setLoft (countRead s gran) q l

/-! ### Corrections (09 R240, R243) -/

/-- The unit that a word's corrections are counted for: class, index, tile, quarter (09 R240). -/
def wordUnit (s : State) (w : Nat) : Nat × Nat × Nat × Nat :=
  match place s (16 * w) with
  | .pad t off => (3, off / 0x20000, t, tileQuarter t)
  | _ => let c := channelOf s (16 * w); (5, c, 0xFFF, c / 128)

/-- The temperature in a record about a word: of the stack that holds it, or of the compute die of the tile (15 R396). -/
def wordTemp (s : State) (u : Nat × Nat × Nat × Nat) : Int :=
  if u.1 = 5 then sensor s (8 + channelStack u.2.1) else sensor s u.2.2.2

/-- One more corrected word of a unit. -/
def bumpUnit (u : Nat × Nat × Nat × Nat) : List ((Nat × Nat × Nat × Nat) × Nat) → List ((Nat × Nat × Nat × Nat) × Nat)
  | [] => [(u, 1)]
  | (v, n) :: l => if v = u then (v, n + 1) :: l else (v, n) :: bumpUnit u l

/-- The row of a stack word: channel·2^24 + row. -/
def wordRow (s : State) (w : Nat) : Nat := let p := placement s (w / 16); 2 ^ 24 * p.1 + p.2

/-- sclk ticks in 24 hours. -/
def dayTicks : Nat := 8640000000000

/-- Occasions within 24 hours kept for a row, and one more (09 R243). -/
def noteRow (s : State) (row n : Nat) : State :=
  let times := ((SMap.get [] s.mem.rowTimes row).filter fun t => s.power.sclk < t + dayTicks) ++ List.replicate n s.power.sclk
  { s with mem := { s.mem with rowTimes := SMap.set [] s.mem.rowTimes row times } }

/-- Whether a row has failed: an uncorrectable word, which noteRow counts as four, or four occasions (09 R243). -/
def rowFailed (s : State) (channel row : Nat) : Bool :=
  4 ≤ ((SMap.get [] s.mem.rowTimes (2 ^ 24 * channel + row)).filter fun t => s.power.sclk < t + dayTicks).length

/-- Stores 16 data bytes in a word as a codeword. -/
def storeWord (s : State) (w data : Nat) : State :=
  { s with mem := { s.mem with
      bytes := s.mem.bytes.writeRun (16 * w) (leBytes 16 data)
      flips := SMap.erase s.mem.flips w } }

/-- Stores a word poisoned (09 R241). -/
def poisonWord (s : State) (w data : Nat) : State :=
  let s := storeWord s w data
  { s with mem := { s.mem with flips := SMap.set 0 s.mem.flips w poisonFlips } }

/-- What a read of word w counts: a correction of its unit (09 R240), or a failure of its row (09 R243). -/
def countWord (s : State) (w : Nat) : State :=
  let r := readWord s w
  if r.fixed then { s with mem := { s.mem with corrected := bumpUnit (wordUnit s w) s.mem.corrected } }
  else if r.bad && !r.poisoned && decide (16 * w < stackTop s) then noteRow s (wordRow s w) 4
  else s

/-- One occasion's reads of words: corrections and failures counted, each row that corrected once (09 R240, R243). -/
def countWords (s : State) (ws : List Nat) : State :=
  let rows := (ws.filter fun w => (readWord s w).fixed && decide (16 * w < stackTop s)).map (wordRow s)
  rows.eraseDups.foldl (fun s r => noteRow s r 1) (ws.foldl countWord s)

/-- A corrected word written back (09 R240). -/
def scrubWord (s : State) (w : Nat) : State :=
  let r := readWord s w
  if r.fixed then storeWord s w r.data else s

/-- The record of an uncorrectable word (15 R398 class 0x02; R397), about a quarter or a tile's step. The snapshot of a word of a
stack's channel has the stack's temperature (15 R396). -/
def badWordFault (s : State) (base : Fault16) (w : Nat) : State :=
  let u := wordUnit s w
  logFault s { base with cls := 0x02, status := .uncorrectable, unitClass := u.1, unitIndex := u.2.1, addr := 16 * w
                         syndrome := (readWord s w).synd
                         temp := wordTemp s u }

/-- The words of a run whose stored bits differ from a codeword of their data. -/
def flippedWords (s : State) (a n : Nat) : List Nat :=
  if n = 0 then [] else (SMap.keys s.mem.flips).filter fun w => a / 16 ≤ w && w ≤ (a + n - 1) / 16

/-- The words that the fills of a run's reads take beside the run's own and that are not codewords. -/
def fillWords (s : State) (q : Option Nat) (look install : Bool) (a n : Nat) : List Nat :=
  if s.mem.flips.isEmpty then []
  else
    ((granules a n).filter fun g => decide (256 * g < stackTop s) && asksFill s q look install g).flatMap fun g =>
      (flippedWords s (256 * g) 256).filter fun w => !(flippedWords s a n).contains w

/-- A read of a run clears the QUEUE_HIGH of each channel block whose byte 16 it takes (08 R231). -/
def clearQueueHigh (s : State) (a n : Nat) : State :=
  match place s a with
  | .quarter q off =>
    if off < 0x80000 ∧ 0x60000 < off + n then
      (upTo 128 fun k => off ≤ 0x60010 + 0x400 * k && 0x60010 + 0x400 * k < off + n).foldl (fun s k =>
        { s with mem := { s.mem with
            channels := SMap.modify {} s.mem.channels (128 * q + k) fun ch => { ch with queueHigh := 0 } } }) s
    else s
  | _ => s

/-- Reads of a run: loft and channel counts, corrections written back. Answers the first uncorrectable word read at its home
or in its bank; an uncorrectable word that only a fill takes is recorded (09 R239). `look` and `install` are those of
touchGranule. -/
def readRun (s : State) (q : Option Nat) (look install : Bool) (a n : Nat) : State × Option Nat :=
  let viaLoft := if look then q else none
  let ws := (flippedWords s a n).filter fun w => (loftLine s viaLoft (16 * w)).isNone
  let others := fillWords s q look install a n
  let bad := ws.find? fun w => (readWord s w).bad
  let s := (granules a n).foldl (fun s g => if 256 * g < stackTop s then touchGranule s q look install g else s) s
  let s := countWords s (ws ++ others)
  let s := (others.filter fun w => (readWord s w).bad).foldl (fun s w =>
    badWordFault s (mkFault s 0x02 .uncorrectable (channelOf s (16 * w) / 128)) w) s
  let s := (ws ++ others).foldl scrubWord s
  (clearQueueHigh s a n, bad)

/-- Who writes: a step of a field on a quarter, or anything else (08 R222, R223). -/
inductive By where
  | step (quarter field : Nat)
  | outside
  deriving DecidableEq, Repr

/-- A line added to a log of at most 4,096 (08 R222). -/
def InvalLog.add (gran : Nat) (g : InvalLog) : InvalLog :=
  if g.lines.contains gran then g
  else if g.lines.length < 4096 then { g with lines := g.lines ++ [gran] }
  else { g with overflow := true }

/-- What a write of a stack granule does to lofts and logs (08 R222, R223). -/
def noteWrite (s : State) (by_ : By) (gran : Nat) : State :=
  let s := countWrite s gran
  match by_ with
  | .step q f =>
    let home := (placement s gran).1 / 128
    let s := if home = q then s else setLoft s q ((loftOf s q).forget gran)
    let i := 16 * home + f
    { s with mem := { s.mem with logs := SMap.modify {} s.mem.logs i (InvalLog.add gran) } }
  | .outside => [0, 1, 2, 3].foldl (fun s q => setLoft s q ((loftOf s q).invalidate true gran)) s

/-- The words of a run whose old value a write of n bytes from a needs: those it covers in part, or all that it covers when it
is made of 4-bit or 2-bit elements (`sub`; 09 R241). -/
def partialWords (s : State) (sub : Bool) (a n : Nat) : List Nat :=
  (flippedWords s a n).filter fun w => sub || decide (16 * w < a) || decide (a + n < 16 * w + 16)

/-- Writes the bytes of a run that fall in word w. Answers whether the word's old value was uncorrectable and the write
partial, so that the bytes are lost and the word is poisoned (09 R241). -/
def writeInWord (s : State) (sub : Bool) (a : Nat) (bs : List Byte) (w : Nat) : State × Bool :=
  let lo := max a (16 * w)
  let hi := min (a + bs.length) (16 * w + 16)
  let seg := (bs.drop (lo - a)).take (hi - lo)
  if SMap.get 0 s.mem.flips w = 0 then ({ s with mem := { s.mem with bytes := s.mem.bytes.writeRun lo seg } }, false)
  else if hi - lo = 16 ∧ sub = false then (storeWord s w (leNat seg), false)
  else
    let r := readWord s w
    if r.bad then (poisonWord s w r.data, true)
    else
      let s := storeWord s w r.data
      ({ s with mem := { s.mem with bytes := s.mem.bytes.writeRun lo seg } }, false)

/-- Writes a run of bytes, made of 4-bit or 2-bit elements where `sub`. Answers whether any byte was lost (09 R241). The old
values that the write needs are read, and counted as reads (09 R240, R243). -/
def writeRun (s : State) (by_ : By) (a : Nat) (bs : List Byte) (sub : Bool := false) : State × Bool :=
  if bs.isEmpty then (s, false)
  else
    let ws := rangeFrom (a / 16) ((a + bs.length - 1) / 16 + 1 - a / 16)
    let s := countWords s (partialWords s sub a bs.length)
    let (s, lost) := ws.foldl (fun p w => let r := writeInWord p.1 sub a bs w; (r.1, p.2 || r.2)) (s, false)
    ((granules a bs.length).foldl (fun s g => if 256 * g < stackTop s then noteWrite s by_ g else s) s, lost)

/-! ### Checks on an access -/

/-- Whether a run lies whole in one range of the address map that the agent may access (01 R29, R33). -/
def runAllowed (s : State) (agent : Agent) (write : Bool) (a n : Nat) : Bool :=
  n == 0 ||
  match place s a, place s (a + n - 1) with
  | .stack, .stack => true
  | .pad _ _, .pad _ _ => true
  | .package o, .package _ => !write && windowReadable agent (.package o)
  | .quarter q o, .quarter q' o' =>
    q == q' && (if write then windowWritable agent (.quarter q o) && windowWritable agent (.quarter q o')
      else windowReadable agent (.quarter q o) && windowReadable agent (.quarter q o'))
  | _, _ => false

/-- Whether every scratchpad bank that a run touches belongs to a field (03 R69). -/
def runOwned (s : State) (f a n : Nat) : Bool :=
  match place s a with
  | .pad _ _ =>
    n == 0 || (rangeFrom ((a - scratchBase) / 0x20000) ((a + n - 1 - scratchBase) / 0x20000 + 1 - (a - scratchBase) / 0x20000)).all
      fun b => ownsBank s f (b / 8) (b % 8)
  | _ => true

/-- Whether an access to a quarter is refused because it is in reset (15 R411). -/
def quarterHeld (s : State) (q : Nat) : Bool := (quarterOf s q).inReset

/-- Whether a run is refused whole with E_BUSY: a Critical stack (08 R233), a tripped package (13 R366), a quarter in reset
(15 R411). -/
def runBusy (s : State) (a n : Nat) : Bool :=
  n != 0 &&
  match place s a with
  | .stack =>
    s.power.tripped
      || (!s.mem.thermal.isEmpty && (granules a n).any fun g => SMap.get .normal s.mem.thermal (channelStack (placement s g).1) == .critical)
      || ([0, 1, 2, 3].any (quarterHeld s) && (granules a n).any fun g => quarterHeld s ((placement s g).1 / 128))
  | .quarter q _ => quarterHeld s q
  | _ => false

/-- Whether a run's transfers would cross a split ring (01 R19). -/
def runCut (s : State) (q a n : Nat) : Bool :=
  n != 0 &&
  match place s a with
  | .stack => (granules a n).any fun g => !ringReaches s q ((placement s g).1 / 128)
  | .pad t _ => !ringReaches s q (tileQuarter t)
  | .quarter q' _ => !ringReaches s q q'
  | .package _ => !ringReaches s q 0
  | .reserved => false

end Sys2Proof.Machine
end

