-- ==== Sys2Proof/Machine/Engines.lean ====
section
/-! DEFINITION. The scan engines' sweeps (09 R249, R250), the check-value units (09 R251, R252) and writes to their windows
(01 R33). A sweep and a feed run to their end in the command that starts them (log 8). -/
namespace Sys2Proof.Machine

def scanOf (s : State) (q e : Nat) : Scan := SMap.get {} s.units.scans (2 * q + e)
def setScan (s : State) (q e : Nat) (x : Scan) : State :=
  { s with units := { s.units with scans := SMap.set {} s.units.scans (2 * q + e) x } }
def cvuOf (s : State) (q u : Nat) : Cvu := SMap.get {} s.units.cvus (4 * q + u)
def setCvu (s : State) (q u : Nat) (x : Cvu) : State :=
  { s with units := { s.units with cvus := SMap.set {} s.units.cvus (4 * q + u) x } }

/-- The unit's procedure parameters (09 R251, R252). -/
def Cvu.params (u : Cvu) : CrcParams := ⟨u.width, u.poly.toNat, u.init.toNat, u.refin, u.refout, u.xorout.toNat⟩

/-- Whether the unit's configuration lets a FEED or sweep start (09 R252). -/
def Cvu.ready (u : Cvu) : Bool :=
  u.poly.toNat < 2 ^ u.width && u.init.toNat < 2 ^ u.width && u.xorout.toNat < 2 ^ u.width && u.value.toNat < 2 ^ u.width

/-- VALUE loaded from INIT and BYTES zeroed (09 R249, R253). -/
def Cvu.restart (u : Cvu) : Cvu := { u with value := u.init, bytes := 0 }

/-- Bytes fed (09 R251), with RESULT written. -/
def Cvu.feed (u : Cvu) (bs : List Byte) : Cvu :=
  let v := crcFeed u.params u.value.toNat bs
  { u with value := BitVec.ofNat 64 v, result := BitVec.ofNat 64 (crcResult u.params v), bytes := wrapAdd 64 u.bytes bs.length }

/-- The bytes of a run before word w. -/
def bytesBefore (s : State) (a n w : Nat) : List Byte := seeBytes s none a (min n (16 * w - a))

/-- The progress of a sweep: state, unit, blocks done, the status that ended it. -/
structure Sweeping where
  s      : State
  unit   : Cvu
  blocks : Nat
  ended  : Status
  deriving DecidableEq, Repr

/-- The step that an engine works for, if any: tile, context, field. -/
abbrev Asker := Option (Nat × Nat × Nat)

/-- The record of a fault of an engine of a quarter: about the step that it works for, or about the quarter (15 R396). -/
def askerFault (s : State) (who : Asker) (cls : Nat) (st : Status) (q : Nat) : Fault16 :=
  match who with
  | some (t, c, f) => tileFault s cls st t c f
  | none => mkFault s cls st q

/-- One block of a sweep (09 R250). -/
def sweepBlock (who : Asker) (q : Nat) (e : Scan) (z : Sweeping) (i : Nat) : Sweeping :=
  if z.ended ≠ .ok then z
  else
    let a := e.start + i * e.stride
    let n := 16 * (e.block16m1 + 1)
    let (s', bad) := readRun z.s (some q) false false a n
    match bad with
    | some w =>
      { s := badWordFault s' (askerFault s' who 0x02 .uncorrectable q) w, unit := z.unit.feed (bytesBefore z.s a n w)
        blocks := z.blocks, ended := .uncorrectable }
    | none => { s := s', unit := z.unit.feed (seeBytes z.s none a n), blocks := z.blocks + 1, ended := .ok }

/-- Whether a sweep's blocks all lie in memory that it may read; by a step, in banks that its field owns (09 R250; 03 R69). -/
def sweepStatus (s : State) (field : Option Nat) (e : Scan) (u : Cvu) : Status :=
  let n := 16 * (e.block16m1 + 1)
  let runs := (if e.stride = 0 then [0] else List.range e.count).map fun i => e.start + i * e.stride
  let bad := fun a => match place s a, place s (a + n - 1) with
    | .stack, .stack => false
    | .pad _ _, .pad _ _ => (field.map fun f => !runOwned s f a n).getD false
    | _, _ => true
  Status.lowest
    [ (e.count == 0 || e.start % 16 != 0 || e.stride % 16 != 0 || runs.any bad || !u.ready, .range),
      (runs.any fun a => runBusy s a n, .busy) ]

/-- A sweep of engine e of quarter q from its start to its end (09 R250): the state and LAST_STATUS. One that fails a check sweeps
nothing, so PROGRESS is 0; its status is also that of the unit's last sweep (09 R249, R252). -/
def sweep (s : State) (who : Asker) (q e : Nat) : State × Status :=
  let x := scanOf s q e
  let u := cvuOf s q x.cvu
  let st := sweepStatus s (who.map (·.2.2)) x u
  if st ≠ .ok then
    let n := 16 * (x.block16m1 + 1)
    let runs := (if x.stride = 0 then [0] else List.range x.count).map fun i => x.start + i * x.stride
    let s := match (if st = .range then runs.find? fun a => place s a == .reserved || place s (a + n - 1) == .reserved else none) with
      | some a => logFault s { askerFault s who 0x0B .range q with addr := a }
      | none => s
    (setScan (setCvu s q x.cvu { u with lastStatus := st }) q e { x with lastStatus := st, progress := 0 }, st)
  else
    let u := if x.initFirst then u.restart else u
    let z := (List.range x.count).foldl (sweepBlock who q x) ⟨s, u, 0, .ok⟩
    let s := setCvu z.s q x.cvu { z.unit with lastStatus := z.ended }
    (setScan s q e { x with lastStatus := z.ended, progress := z.blocks }, z.ended)

/-! ### Writes to the engines' windows (01 R33; 09 R249, R252) -/

/-- Reserved bits of a scan engine's block: 511 to 256, 207 to 197, 191 to 168, 127 to 106, 63 to 42 (09 R249). -/
def scanReserved : Nat := 
  0xffffffffffffffffffffffffffffffffffffffffffffffffffffffffffffffff000000000000ffe0ffffff0000000000fffffc0000000000fffffc0000000000
/-- Reserved bits of a check-value unit's block: 511 to 448, 63 to 32, 15 to 12, 8 to 7 (09 R252). -/
def cvuReserved : Nat := 
  0xffffffffffffffff000000000000000000000000000000000000000000000000000000000000000000000000000000000000000000000000ffffffff0000f180

/-- A block's value with n bytes written at an offset, and the value and mask written. -/
def blockMerge (old off : Nat) (bs : List Byte) : Nat × Nat :=
  let v := leNat bs <<< (8 * off)
  let m := (2 ^ (8 * bs.length) - 1) <<< (8 * off)
  (old ^^^ ((old ^^^ v) &&& m), v)

/-- The bytes of a run at window offset `off` that fall in [lo, lo + 64): their block offset and the bytes. -/
def clipBlock (off : Nat) (bs : List Byte) (lo : Nat) : Nat × List Byte :=
  let a := max off lo
  let b := min (off + bs.length) (lo + 64)
  (a - lo, (bs.drop (a - off)).take (b - a))

/-- Whether a run at window offset `off` writes only zeros outside the register blocks: 64 bytes at every 0x100, two from 0x30000
and four from 0x40000. -/
def outsideZero (off : Nat) (bs : List Byte) : Bool :=
  (List.range bs.length).all fun i =>
    let o := off + i
    bs.getD i 0 == 0 || (o % 0x100 < 64 && ((0x30000 ≤ o && o < 0x30200) || (0x40000 ≤ o && o < 0x40400)))

/-- The status of a write to engine e's block. -/
def scanWriteStatus (x : Scan) (part : Nat × List Byte) : Status :=
  let (_, v) := blockMerge (scanBlock x) part.1 part.2
  if part.2.isEmpty then .ok
  else Status.lowest [(x.busy, .busy), (v &&& scanReserved != 0, .reserved)]

/-- Engine e's registers after a write (09 R249). -/
def scanWritten (x : Scan) (part : Nat × List Byte) : Scan :=
  let (n, _) := blockMerge (scanBlock x) part.1 part.2
  { x with start := bits n 41 0, stride := bits n 105 64, count := bits n 159 128, block16m1 := bits n 167 160
           initFirst := bit n 193, cvu := bits n 195 194 }

def cvuWriteStatus (x : Cvu) (part : Nat × List Byte) : Status :=
  let (n, v) := blockMerge (cvuBlock x) part.1 part.2
  if part.2.isEmpty then .ok
  else Status.lowest [(x.busy, .busy), (v &&& cvuReserved != 0, .reserved), (bits n 6 0 < 8 || 64 < bits n 6 0, .range)]

/-- A unit's registers after a write (09 R252). -/
def cvuWritten (x : Cvu) (part : Nat × List Byte) : Cvu :=
  let (n, _) := blockMerge (cvuBlock x) part.1 part.2
  { x with width := bits n 6 0, refin := bit n 9, refout := bit n 10, poly := BitVec.ofNat 64 (bits n 127 64)
           init := BitVec.ofNat 64 (bits n 191 128), xorout := BitVec.ofNat 64 (bits n 255 192)
           value := BitVec.ofNat 64 (bits n 319 256) }

/-- Engine e's block written, and a sweep run where GO is written (09 R249). -/
def scanWindowWrite (who : Asker) (q off : Nat) (bs : List Byte) (s : State) (e : Nat) : State :=
  let part := clipBlock off bs (0x30000 + 0x100 * e)
  if part.2.isEmpty then s
  else
    let s' := setScan s q e (scanWritten (scanOf s q e) part)
    if bit (blockMerge 0 part.1 part.2).2 192 then (sweep s' who q e).1 else s'

/-- Unit u's block written (09 R252). -/
def cvuWindowWrite (q off : Nat) (bs : List Byte) (s : State) (u : Nat) : State :=
  let part := clipBlock off bs (0x40000 + 0x100 * u)
  if part.2.isEmpty then s else setCvu s q u (cvuWritten (cvuOf s q u) part)

/-- The status of a write of bytes at offset `off` of a quarter window, in the engines' part. -/
def enginesStatus (s : State) (q off : Nat) (bs : List Byte) : Status :=
  Status.lowest ((!outsideZero off bs, .reserved)
    :: ([0, 1].map fun e =>
        let st := scanWriteStatus (scanOf s q e) (clipBlock off bs (0x30000 + 0x100 * e))
        (st != .ok, st))
    ++ [0, 1, 2, 3].map fun u =>
        let st := cvuWriteStatus (cvuOf s q u) (clipBlock off bs (0x40000 + 0x100 * u))
        (st != .ok, st))

/-- A write to the engines' part of a quarter window: refused whole, or every block written, the check-value units' before a sweep
starts (09 R249, R252). `off` is the quarter window offset. -/
def writeEngines (s : State) (who : Asker) (q off : Nat) (bs : List Byte) : State × Status :=
  let st := enginesStatus s q off bs
  if st ≠ .ok then (s, st)
  else ([0, 1].foldl (scanWindowWrite who q off bs) ([0, 1, 2, 3].foldl (cvuWindowWrite q off bs) s), .ok)

/-- The part of a firmware write that falls in a quarter's engine registers, one block at a time: fields marked RO and reserved
bits take nothing (01 R33), and a block that refuses the write (09 R249, R252) keeps its registers. Answers the state and the
statuses of the blocks. -/
def firmwareWrite (s : State) (q addr : Nat) (data : List Byte) : State × List Status :=
  let cvus := [0, 1, 2, 3].foldl (fun (z : State × List Status) u =>
    let part := clipBlock addr data (quarterWindow q + 0x40000 + 0x100 * u)
    let x := cvuOf z.1 q u
    let w := bits (blockMerge (cvuBlock x) part.1 part.2).1 6 0
    if part.2.isEmpty then z
    else if x.busy then (z.1, .busy :: z.2)
    else if w < 8 ∨ 64 < w then (z.1, .range :: z.2)
    else (setCvu z.1 q u (cvuWritten x part), z.2)) (s, [])
  [0, 1].foldl (fun (z : State × List Status) e =>
    let part := clipBlock addr data (quarterWindow q + 0x30000 + 0x100 * e)
    let x := scanOf z.1 q e
    if part.2.isEmpty then z
    else if x.busy then (z.1, .busy :: z.2)
    else
      let s' := setScan z.1 q e (scanWritten x part)
      (if bit (blockMerge 0 part.1 part.2).2 192 then (sweep s' none q e).1 else s', z.2)) cvus

end Sys2Proof.Machine
end

