-- ==== Sys2Proof/Machine/Flags.lean ====
section
/-! DEFINITION. How a step issues, completes and flows on: context states (03 R71, R73), status flags and LAST_STATUS (03 R80,
R81), loop ends (03 R77), unwritten step indices (03 R449). -/
namespace Sys2Proof.Machine

def ctxOf (s : State) (tile ctx : Nat) : Ctx := SMap.get {} s.tiles.ctxs (16 * tile + ctx)
def setCtx (s : State) (tile ctx : Nat) (x : Ctx) : State :=
  { s with tiles := { s.tiles with ctxs := SMap.set {} s.tiles.ctxs (16 * tile + ctx) x } }
def stepEntry (s : State) (tile idx : Nat) : Option StepEntry := SMap.get none s.tiles.table (4096 * tile + idx)

/-- Flag numbers (03 R80). -/
def flagErr : Nat := 0
def flagEmpty : Nat := 1
def flagFull : Nat := 2
def flagTimeout : Nat := 3
def flagAbandoned : Nat := 4
def flagNonfinite : Nat := 5
def flagScale : Nat := 6
def flagCmp : Nat := 7

/-- A flag written. -/
def setFlag (f : BitVec 16) (k : Nat) (v : Bool) : BitVec 16 :=
  let m := BitVec.ofNat 16 (2 ^ k)
  if v then f ||| m else f &&& ~~~m

/-- Flags written in order. -/
def setFlags (f : BitVec 16) (l : List (Nat × Bool)) : BitVec 16 := l.foldl (fun f p => setFlag f p.1 p.2) f

/-- LAST_STATUS keeps the latest status other than OK (03 R81, R107). -/
def Ctx.noteStatus (x : Ctx) (st : Status) : Ctx := { x with lastStatus := if st = .ok then x.lastStatus else st }

/-- No check context runs for a context's item any longer. -/
def dropCheck (s : State) (tile ctx : Nat) : State :=
  { s with tiles := { s.tiles with checks := s.tiles.checks.filter fun p => (p.2.map fun r => (r.tile, r.ctx)) != some (tile, ctx) } }

/-- The record of flow to an unwritten index (03 R449). -/
def unwrittenFault (s : State) (tile ctx : Nat) (x : Ctx) : State :=
  logFault s { tileFault s 0x0B .range tile ctx x.owner with detail := 0 }

/-- Flow to a step index: the context is ready there, or halts where no template of its field wrote, and loses its item (03
R449). -/
def goTo (s : State) (tile ctx : Nat) (x : Ctx) (idx : Nat) : State :=
  match stepEntry s tile idx with
  | some e =>
    if e.field = x.owner then setCtx s tile ctx { x with step := idx, state := .ready, waiting := none }
    else halted s tile ctx x idx
  | none => halted s tile ctx x idx
where
  halted (s : State) (tile ctx : Nat) (x : Ctx) (idx : Nat) : State :=
    let x := { x with step := idx, state := .halted, waiting := none, lastStatus := .range, flags := setFlag x.flags flagErr true }
    let s := unwrittenFault (setCtx s tile ctx x) tile ctx x
    dropCheck (setCtx s tile ctx { x with item := none, check := none, digest := 0 }) tile ctx

/-- Where flow goes after a step, and the loop counters then (03 R77). -/
def flowNext (w : BitVec 128) (x : Ctx) : Nat × Ctx :=
  if !stepLoopEnd w then (stepNext w, x)
  else
    let k := stepLoopNo w
    let cur := SMap.get 0 x.loopCur k
    let left := (if cur = 0 then 1 else cur) - 1
    if left ≠ 0 then (stepNext w, { x with loopCur := SMap.set 0 x.loopCur k left })
    else (x.step + 1, { x with loopCur := SMap.set 0 x.loopCur k (SMap.get 0 x.loopStart k) })

/-- How a step ends. -/
inductive StepEnd where
  /-- Completes with a status and flags beside ERR; flow by 03 R77. -/
  | done (s : State) (status : Status) (flags : List (Nat × Bool))
  /-- Completes, and flow goes to an index of the step's own. -/
  | jump (s : State) (status : Status) (flags : List (Nat × Bool)) (next : Nat)
  /-- Sleeps (03 R83). -/
  | sleep (s : State) (w : Waiting)
  /-- Blocked: the context's step waits for a unit, a record or a split ring (03 R71, R73; 01 R19). -/
  | block (s : State)
  /-- Halted (03 R78). -/
  | halt (s : State)
  /-- The step is in flight: a gleaning request is out, or ITEM_END waits for a repeat check (03 R97; 15 R408). -/
  | flight (s : State)

/-- A step's status and flags written to its context. -/
def finishCtx (x : Ctx) (st : Status) (flags : List (Nat × Bool)) : Ctx :=
  { x.noteStatus st with flags := setFlags x.flags ((flagErr, st != .ok) :: flags) }

/-- The state after a step of a context ends. A context that HALT halts keeps the index of that step: DESIGN CHOICE (log 25). -/
def endStep (tile ctx : Nat) (w : BitVec 128) : StepEnd → State
  | .done s st flags =>
    let (next, x) := flowNext w (finishCtx (ctxOf s tile ctx) st flags)
    goTo s tile ctx x next
  | .jump s st flags next => goTo s tile ctx (finishCtx (ctxOf s tile ctx) st flags) next
  | .sleep s wt => setCtx s tile ctx { ctxOf s tile ctx with state := .sleeping, waiting := some wt }
  | .block s => setCtx s tile ctx { ctxOf s tile ctx with state := .blocked }
  | .halt s =>
    let x := finishCtx (ctxOf s tile ctx) .ok []
    setCtx s tile ctx { x with state := .halted }
  | .flight s => s

/-- What a step has at issue: the issuing tile and context, its step word, its field. -/
structure Env where
  tile  : Nat
  ctx   : Nat
  word  : BitVec 128
  field : Nat
  fd    : Field
  item  : Option (BitVec 512)
  /-- What the step read when it issued, where it is taken up again (03 R84; 04 R128). -/
  latched : SMap (Option (BitVec 256))
  /-- Words (address / 16) that a hop of the base-die network or the face bond makes uncorrectable on their way (09 R239). -/
  hops  : List Nat
  deriving DecidableEq, Repr

def Env.quarter (e : Env) : Nat := tileQuarter e.tile
/-- Origins of the item held (03 R91). -/
def Env.originA (e : Env) : Pos := (e.item.map itemA).getD .zero
def Env.originB (e : Env) : Pos := (e.item.map itemB).getD .zero
def Env.originD (e : Env) : Pos := (e.item.map itemD).getD .zero

/-- Whether a tile's clock runs (01 R26; 13 R366; 15 R411, R413; 14 R374): its quarter is in service and out of reset. -/
def tileRuns (s : State) (tile : Nat) : Bool :=
  let q := quarterOf s (tileQuarter tile)
  q.inService && !q.inReset && s.power.pllLocked && !s.power.tripped && s.power.state == .run

/-- What a step of a context in a given state finds at its step index. -/
def envAt (s : State) (tile ctx : Nat) (st : CtxState) : Option Env :=
  let x := ctxOf s tile ctx
  if x.state = st ∧ tileRuns s tile then
    match stepEntry s tile x.step, fieldOf s x.owner with
    | some e, some fd => if e.field = x.owner then some ⟨tile, ctx, e.word, x.owner, fd, x.item, if st = .ready then [] else x.latched, []⟩ else none
    | _, _ => none
  else none

/-- A context that leaves state 4: the tile counts the tclk that it slept (03 R106). -/
def countSleep (s : State) (tile ctx : Nat) : State :=
  if (ctxOf s tile ctx).state = .sleeping then
    { s with tiles := { s.tiles with counters := SMap.modify {} s.tiles.counters tile fun c =>
        { c with slept := wrapAdd 64 c.slept (sleepLength c tile) } } }
  else s

/-- The state with a step issued: the context runs it and the tile counts it (03 R106). What an earlier step held is gone. -/
def issued (s : State) (tile ctx : Nat) : State :=
  let s := setCtx s tile ctx { ctxOf s tile ctx with state := .running, latched := [] }
  { s with tiles := { s.tiles with counters := SMap.modify {} s.tiles.counters tile fun c => { c with steps := wrapAdd 64 c.steps 1 } } }

/-- A step row: the context's ready step issues and acts, when the word at its step index is of the row's class and
operation; otherwise the row does not occur (log 1). -/
def runStep (s : State) (tile ctx cls : Nat) (pick : Nat → Bool) (act : State → Env → StepEnd) : State :=
  match envAt s tile ctx .ready with
  | some e => if stepClass e.word = cls ∧ pick (stepOp e.word) then endStep tile ctx e.word (act (issued s tile ctx) e) else s
  | none => s

/-- A step that fails its checks: it acts on nothing (03 R76). -/
def StepEnd.fail (s : State) (st : Status) : StepEnd := .done s st []

end Sys2Proof.Machine
end

