-- ==== Sys2Proof/Machine/Ops.lean ====
section
/-! DEFINITION. The shared operations of data steps: descriptor slots and operands (03 R84, R90), runs of element reads and
writes (09 R239, R241; 15 R404), and the checks on the addresses a step touches (01 R19, R29, R33; 03 R69; 08 R233). -/
namespace Sys2Proof.Machine

/-! ### Slots (03 R84) -/

/-- What a step taken up again read at an index when it issued. -/
def Env.held (e : Env) (i : Nat) : Option (BitVec 256) := SMap.get none e.latched i

/-- The conditions on a slot of the issuing tile that a step reads. -/
def slotConds (s : State) (e : Env) (slot : Nat) : List (Bool × Status) :=
  let a := padAddr e.tile (slot * 32)
  let ok := slot < 0x8000
  [ (!ok, .range), (ok && !runOwned s e.field a 32, .range),
    (ok && (e.held slot).isNone && (flippedWords s a 32).any fun w => (readWord s w).bad, .uncorrectable) ]

/-- The 32 bytes of a slot as the step read them when it issued. -/
def slotBytes (s : State) (e : Env) (slot : Nat) : List Byte :=
  match e.held slot with
  | some b => leBytes 32 b.toNat
  | none => seeBytes s none (padAddr e.tile (slot * 32)) 32

/-! ### Operands -/

/-- A tensor operand: its descriptor, its scale-group descriptor, its statistics record and the item's origin. -/
structure Operand where
  d      : Desc
  sg     : Scale
  rec_   : Option StatRec
  origin : Pos
  deriving DecidableEq, Repr

/-- The operand that a slot names. -/
def operand (s : State) (e : Env) (slot : Nat) (origin : Pos) : Operand :=
  let d := Desc.parse (slotBytes s e slot)
  let sg := if d.scaleSlot = 0xFFFF then .absent else Scale.parse (slotBytes s e d.scaleSlot)
  let r := if sg.statSlot = 0xFFFF then none else some (StatRec.parse (slotBytes s e sg.statSlot))
  ⟨d, sg, r, origin⟩

/-- The conditions on an operand (03 R84, R86, R90; 04 R109); `dest` says that its statistics record is read. -/
def operandConds (s : State) (e : Env) (slot : Nat) (origin : Pos) (accepts : Fmt → Bool) (dest : Bool) : List (Bool × Status) :=
  let sl := slotConds s e slot
  if sl.any (·.1) then sl
  else
    let o := operand s e slot origin
    let c := o.d.conds s.mgmt.capWord.toNat accepts origin
    let noScale := o.d.scaleSlot != 0xFFFF && (slotConds s e o.d.scaleSlot).any (·.1)
    let c2 : List (Bool × Status) := if o.d.scaleSlot = 0xFFFF then [(o.d.fmt.groupRange.1 > 0, Status.range)]
      else if noScale then slotConds s e o.d.scaleSlot
      else o.sg.conds o.d.fmt
    let c3 : List (Bool × Status) := if !dest || noScale || o.sg.statSlot = 0xFFFF then []
      else
        let sc := slotConds s e o.sg.statSlot
        if sc.any (·.1) then sc
        else match o.rec_ with
          | some r => r.conds ++ r.modeConds o.sg o.d.fmt
          | none => []
    c ++ c2 ++ c3

/-- The slots of an operand: its descriptor, its scale-group descriptor and, for a destination of conversions (`dest`), its
statistics record, where they name one (06 R164). -/
def operandSlots (s : State) (e : Env) (dest : Bool) (slot : Nat) : List Nat :=
  if 0x8000 ≤ slot then []
  else
    let d := Desc.parse (slotBytes s e slot)
    if 0x8000 ≤ d.scaleSlot then [slot]
    else
      let sg := Scale.parse (slotBytes s e d.scaleSlot)
      [slot, d.scaleSlot] ++ if !dest || 0x8000 ≤ sg.statSlot then [] else [sg.statSlot]

/-- The read of a slot when a step issues (03 R84, R90): corrections written back, an uncorrectable word recorded (09 R239,
R240). -/
def readSlot (e : Env) (s : State) (slot : Nat) : State :=
  let a := padAddr e.tile (slot * 32)
  if slot < 0x8000 ∧ runOwned s e.field a 32 ∧ (e.held slot).isNone then
    match readRun s none false false a 32 with
    | (s, some w) => badWordFault s (tileFault s 0x02 .uncorrectable e.tile e.ctx e.field) w
    | (s, none) => s
  else s

/-- The slots that a step reads when it issues: of its sources, of its destinations, and those that hold no descriptor. -/
def issueSlots (s : State) (e : Env) (srcs dests raw : List Nat) : List Nat :=
  srcs.flatMap (operandSlots s e false) ++ dests.flatMap (operandSlots s e true) ++ raw.filter (· < 0x8000)

/-- The reads of a step's slots when it issues. -/
def readSlots (s : State) (e : Env) (slots : List Nat) : State := slots.foldl (readSlot e) s

/-- The place of the rounding key among what a step holds. -/
def keyIndex : Nat := 0x10000

/-- The rounding key of a field on a tile: 16 bytes (04 R128). -/
def roundingKey (s : State) (fd : Field) (tile : Nat) : Nat := leNat (seeBytes s none (keyAddr fd tile) 16)
def keySeed (k : Nat) : BitVec 32 := BitVec.ofNat 32 (bits k 31 0)
def keyStep (k : Nat) : BitVec 32 := BitVec.ofNat 32 (bits k 63 32)

/-- The rounding key as the step read it when it issued (04 R128). -/
def keyOf (s : State) (e : Env) : Nat := ((e.held keyIndex).map BitVec.toNat).getD (roundingKey s e.fd e.tile)

/-- A step that stays in flight holds what it read when it issued (03 R84; 04 R128). -/
def latch (s : State) (e : Env) (slots : List Nat) (key : Nat := roundingKey s e.fd e.tile) : State :=
  if e.latched.isEmpty then
    let held := slots.foldl (fun m k => SMap.set none m k (some (BitVec.ofNat 256 (leNat (slotBytes s e k))))) []
    setCtx s e.tile e.ctx { ctxOf s e.tile e.ctx with
      latched := SMap.set none held keyIndex (some (BitVec.ofNat 256 key)) }
  else s

/-- The raw code of an element (04 R119) as a tile of a quarter sees it. -/
def elemCode (s : State) (loft : Option Nat) (d : Desc) (p : Pos) : Nat :=
  let b := d.bitAddr p
  let w := d.fmt.width
  leNat (seeBytes s loft (b / 8) (ceilDiv (b % 8 + w) 8)) >>> (b % 8) % 2 ^ w

/-- The scale and zero point of an element (03 R89; 04 R120). -/
def elemScale (s : State) (loft : Option Nat) (o : Operand) (p : Pos) : F32 × Nat :=
  let g := o.sg.groupIndex o.d p
  let sc := if o.sg.group = 0 then f32One
    else f32OfBf16 (BitVec.ofNat 16 (leNat (seeBytes s loft (o.sg.base + 2 * g) 2)))
  (sc, if o.sg.asym then (seeByte s loft (o.sg.zero + g)).toNat else 0)

/-- The value of an element (04 R120). -/
def elemValue (s : State) (loft : Option Nat) (o : Operand) (p : Pos) : F32 :=
  let (sc, z) := elemScale s loft o p
  o.d.fmt.element (elemCode s loft o.d p) sc z

/-! ### Runs -/

/-- One access of a step: a run of bytes read, or a run of bits written, of 4-bit or 2-bit elements where `sub` (09 R241). -/
inductive Acc where
  | rd (a n : Nat) (look install : Bool)
  | wr (bit width value : Nat) (sub : Bool)
  deriving DecidableEq, Repr

/-- Adjacent runs (start, length) joined, in order. -/
def joinRuns : List (Nat × Nat) → List (Nat × Nat)
  | [] => []
  | (a, n) :: rs =>
    match joinRuns rs with
    | (b, m) :: rs' => if a + n = b then (a, n + m) :: rs' else (a, n) :: (b, m) :: rs'
    | [] => [(a, n)]

/-- Runs of bits as runs of bytes. -/
def byteRuns (l : List (Nat × Nat)) : List (Nat × Nat) :=
  (joinRuns (l.filter fun r => r.2 != 0)).map fun r => (r.1 / 8, ceilDiv (r.1 % 8 + r.2) 8)

/-- Adjacent writes (first bit, width, value) joined, in order. -/
def joinWrites : List (Nat × Nat × Nat) → List (Nat × Nat × Nat)
  | [] => []
  | (a, n, v) :: rs =>
    match joinWrites rs with
    | (b, m, u) :: rs' => if a + n = b then (a, n + m, v + u <<< n) :: rs' else (a, n, v) :: (b, m, u) :: rs'
    | [] => [(a, n, v)]

/-- The reads of elements' bytes. -/
def readsOf (d : Desc) (ps : List Pos) (look install : Bool) : List Acc :=
  (byteRuns (ps.map fun p => (d.bitAddr p, d.fmt.width))).map fun r => .rd r.1 r.2 look install

/-- The writes of elements' codes. -/
def writesOf (d : Desc) (pcs : List (Pos × Nat)) : List Acc :=
  (joinWrites (pcs.map fun pc => (d.bitAddr pc.1, d.fmt.width, pc.2))).map fun r => .wr r.1 r.2.1 r.2.2 (d.fmt.width < 8)

/-- A write of whole bytes. -/
def writeAcc (a : Nat) (bs : List Byte) : Acc := .wr (8 * a) (8 * bs.length) (leNat bs) false

/-- The bytes that a write of bits stores, merged with what its first and last byte hold. -/
def mergedBytes (s : State) (bit width value : Nat) : List Byte :=
  let n := ceilDiv (bit % 8 + width) 8
  if bit % 8 = 0 ∧ width % 8 = 0 then leBytes n value
  else
    let old := leNat (seeBytes s none (bit / 8) n)
    let m := (2 ^ width - 1) <<< (bit % 8)
    leBytes n (old ^^^ ((old ^^^ (value <<< (bit % 8))) &&& m))

/-- A digest term: the word's address, the tile offset for the running tile's own scratchpad, and its data (15 R404). -/
def digestTerm (own : Bool) (addr : Nat) (data : List Byte) : BitVec 64 :=
  BitVec.ofNat 64 (crc crc64xz (leBytes 8 (if own then addr % 0x100000 else addr) ++ data))

/-- Whether an address lies in a tile's scratchpad. -/
def inPad (tile a : Nat) : Bool := padAddr tile 0 ≤ a && a < padAddr (tile + 1) 0

/-- The sum of the digest terms of the words that a run touches, as they stand in a state (15 R404). -/
def digestRun (s : State) (tile a n : Nat) : BitVec 64 :=
  (rangeFrom (a / 16) ((a + n - 1) / 16 + 1 - a / 16)).foldl
    (fun d w => d + digestTerm (inPad tile (16 * w)) (16 * w) (leBytes 16 (wordBits s w))) 0

/-- A run of accesses in progress. `stop` is the status that ended it. -/
structure Running where
  s    : State
  lost : Bool
  stop : Status
  dig  : BitVec 64
  deriving DecidableEq, Repr

/-- The words of a run that a hop spoils on their way: the tile's own scratchpad is reached by none (09 R239). -/
def spoiltWords (e : Env) (a n : Nat) : List Nat :=
  e.hops.filter fun w => decide (n ≠ 0) && decide (a / 16 ≤ w) && decide (w ≤ (a + n - 1) / 16) && !inPad e.tile (16 * w)

/-- The record of a word that reaches its reader poisoned by a hop (09 R239; 15 R397): the plot port of the tile's plot. -/
def hopFault (s : State) (e : Env) (w : Nat) : State :=
  logFault s { tileFault s 0x02 .uncorrectable e.tile e.ctx e.field with
    unitClass := 7, unitIndex := tilePlot e.tile % 36, addr := 16 * w }

/-- A step's read of a run: one that fails ends the run of accesses (09 R239). -/
def readAcc (e : Env) (r : Running) (a n : Nat) (look install : Bool) : Running :=
  match readRun r.s (some e.quarter) look install a n with
  | (s, some w) => { r with s := badWordFault s (tileFault s 0x02 .uncorrectable e.tile e.ctx e.field) w, stop := .uncorrectable }
  | (s, none) =>
    match spoiltWords e a n with
    | [] => { r with s := s }
    | w :: _ => { r with s := hopFault s e w, stop := .uncorrectable }

/-- A step's write of bytes to memory: a partial write of an uncorrectable word loses its bytes and the run of accesses goes on;
a word that arrives uncorrectable is stored poisoned (09 R241). -/
def storeAcc (e : Env) (r : Running) (a : Nat) (bs : List Byte) (sub : Bool) : Running :=
  let w := writeRun r.s (.step e.quarter e.field) a bs sub
  let u := wordUnit w.1 (a / 16)
  let s := if w.2 then logFault w.1 { tileFault w.1 0x03 .uncorrectable e.tile e.ctx e.field with
      addr := a, unitClass := u.1, unitIndex := u.2.1, temp := wordTemp w.1 u } else w.1
  let s := (spoiltWords e a bs.length).foldl (fun s w => poisonWord s w (wordBits s w)) s
  { r with s := s, lost := r.lost || w.2, dig := r.dig + digestRun s e.tile a bs.length }

/-- A step's write of bytes: to memory, or to an engine's window, which may refuse it (09 R249, R252). -/
def placeAcc (e : Env) (r : Running) (a : Nat) (bs : List Byte) (sub : Bool) : Running :=
  match place r.s a with
  | .stack => storeAcc e r a bs sub
  | .pad _ _ => storeAcc e r a bs sub
  | .package _ => { r with stop := .range }
  | .quarter q off =>
    let w := writeEngines r.s (some (e.tile, e.ctx, e.field)) q off bs
    { r with s := w.1, stop := w.2 }
  | .reserved => { r with stop := .range }

/-- One access of a step. -/
def runAcc (e : Env) (r : Running) (acc : Acc) : Running :=
  if r.stop ≠ .ok then r
  else
    match acc with
    | .rd a n look install => readAcc e r a n look install
    | .wr bit width value sub => placeAcc e r (bit / 8) (mergedBytes r.s bit width value) sub

/-- A step's accesses at their end: the digest of its context moved on (15 R404). The status is E_UNCORRECTABLE when a read
failed or bytes were lost. -/
def closeAccs (e : Env) (r : Running) : State × Status :=
  let x := ctxOf r.s e.tile e.ctx
  let s := if x.check.isSome then setCtx r.s e.tile e.ctx { x with digest := x.digest + r.dig } else r.s
  (s, if r.stop ≠ .ok then r.stop else if r.lost then .uncorrectable else .ok)

/-- A step's accesses in order. -/
def runAccs (s : State) (e : Env) (accs : List Acc) : State × Status :=
  closeAccs e (accs.foldl (runAcc e) ⟨s, false, .ok, 0⟩)

/-! ### Checks on footprints -/

/-- The conditions on runs (address, length) that a step reads or writes. -/
def runConds (s : State) (e : Env) (write : Bool) (runs : List (Nat × Nat)) : List (Bool × Status) :=
  [ (runs.any fun r => !runAllowed s .tile write r.1 r.2 || !runOwned s e.field r.1 r.2, .range),
    (runs.any fun r => runBusy s r.1 r.2, .busy) ]

/-- The first run that 01 R29 refuses, if any. -/
def refusedRun (s : State) (write : Bool) (runs : List (Nat × Nat)) : Option Nat :=
  (runs.find? fun r => !runAllowed s .tile write r.1 r.2).map (·.1)

/-- Whether any run would cross a split ring. -/
def runsCut (s : State) (e : Env) (runs : List (Nat × Nat)) : Bool := runs.any fun r => runCut s e.quarter r.1 r.2

/-- The runs of elements. -/
def elemRuns (d : Desc) (ps : List Pos) : List (Nat × Nat) := byteRuns (ps.map fun p => (d.bitAddr p, d.fmt.width))

/-- The runs of elements' scales and zero points. -/
def scaleRuns (o : Operand) (ps : List Pos) : List (Nat × Nat) :=
  let gs := (ps.map fun p => o.sg.groupIndex o.d p).eraseDups
  (if o.sg.group = 0 then [] else byteRuns (gs.map fun g => (8 * (o.sg.base + 2 * g), 16)))
    ++ (if o.sg.asym then byteRuns (gs.map fun g => (8 * (o.sg.zero + g), 8)) else [])

/-- The reads of scales and zero points (08 R221; 09 R239). -/
def scaleReads (o : Operand) (ps : List Pos) : List Acc := (scaleRuns o ps).map fun r => .rd r.1 r.2 true false

/-- The reads of elements with their scales. -/
def operandReads (o : Operand) (ps : List Pos) : List Acc := readsOf o.d ps true false ++ scaleReads o ps

/-- Whether two lists of runs share a byte. -/
def runsOverlap (a b : List (Nat × Nat)) : Bool :=
  a.any fun r => b.any fun t => r.1 < t.1 + t.2 && t.1 < r.1 + r.2

/-- The first address that 01 R29 refuses among the runs that a step reads (false) or writes (true). -/
def touchRefused (s : State) (touches : List (Bool × List (Nat × Nat))) : Option Nat :=
  touches.findSome? fun t => refusedRun s t.1 t.2

/-- The record of a step's access refused under 01 R29 (15 R398 class 0x0B, source 0). -/
def recordRefused (s : State) (e : Env) (st : Status) (touches : List (Bool × List (Nat × Nat))) : State :=
  match (if st = .range then touchRefused s touches else none) with
  | some a => logFault s { tileFault s 0x0B st e.tile e.ctx e.field with addr := a }
  | none => s

/-- A step refused at issue: nothing is done; an access refused under 01 R29 makes a record. -/
def refuseStep (s : State) (e : Env) (st : Status) (touches : List (Bool × List (Nat × Nat))) : StepEnd :=
  .fail (recordRefused s e st touches) st

/-- A step's end, with the record of 01 R29 when the access was refused. -/
def noteRefused (e : Env) (s0 : State) (touches : List (Bool × List (Nat × Nat))) : StepEnd → StepEnd
  | .done s st flags =>
    match (if st = .range then touchRefused s0 touches else none) with
    | some a => .done (logFault s { tileFault s 0x0B st e.tile e.ctx e.field with addr := a }) st flags
    | none => .done s st flags
  | x => x

/-- A block's positions, dimension 0 first: n1 rows of n0 from an origin. -/
def blockPos (o : Pos) (n0 n1 : Nat) : List Pos :=
  (List.range n1).flatMap fun r => (List.range n0).map fun c => ⟨o.i0 + c, o.i1 + r, o.i2, o.i3⟩

end Sys2Proof.Machine
end

