-- ==== Sys2Proof/Machine/Ctrl.lean ====
section
/-! DEFINITION. CTRL and PRED steps (03 R78, R79) and the step table's refetch (09 R239). ITEM_END stands with the queues. -/
namespace Sys2Proof.Machine

/-- Whether every operand field of a step word is zero (03 R76). -/
def operandsZero (w : BitVec 128) : Bool := bits w.toNat 113 16 == 0

/-- CTRL operations 0x04 and above, which NOP's row takes with the reserved ones (log 1). -/
def doNop (s : State) (e : Env) : StepEnd :=
  if stepOp e.word = 0 ∧ operandsZero e.word then .done s .ok [] else .fail s .reserved

/-- NOP (03 R78). -/
def execNop (tile ctx : Nat) (s : State) : Host.Outcome State Fault Refusal :=
  .next (runStep s tile ctx 0x00 (fun op => op == 0 || 4 ≤ op) doNop)

/-- SETLOOP (03 R78). -/
def doSetloop (s : State) (e : Env) : StepEnd :=
  let w := e.word
  if bits (stepHi w) 13 2 ≠ 0 ∨ bits w.toNat 63 16 ≠ 0 ∨ stepUnit w ≠ 0 then .fail s .reserved
  else if stepLo w = 0 then .fail s .range
  else
    let k := stepHi w
    let v := BitVec.ofNat 32 (stepLo w)
    let x := ctxOf s e.tile e.ctx
    .done (setCtx s e.tile e.ctx { x with loopStart := SMap.set 0 x.loopStart k v, loopCur := SMap.set 0 x.loopCur k v }) .ok []

def execSetloop (tile ctx : Nat) (s : State) : Host.Outcome State Fault Refusal :=
  .next (runStep s tile ctx 0x00 (· == 1) doSetloop)

/-- HALT (03 R78). -/
def doHalt (s : State) (e : Env) : StepEnd :=
  if operandsZero e.word then .halt s else .fail s .reserved

def execHalt (tile ctx : Nat) (s : State) : Host.Outcome State Fault Refusal :=
  .next (runStep s tile ctx 0x00 (· == 3) doHalt)

/-- Where a PRED step flows (03 R79). -/
def predNext (w : BitVec 128) (flags : BitVec 16) : Nat :=
  let op := stepOp w
  let f := flags.toNat.testBit (op % 16)
  if f != bit op 7 then stepLo w % 4096 else stepNext w

/-- A PRED step: it writes no flag, ERR included (03 R79, R80). With a reserved bit set it goes on at NEXT (log 15). -/
def doPred (s : State) (e : Env) : State :=
  let w := e.word
  let x := ctxOf s e.tile e.ctx
  if bits (stepOp w) 6 4 ≠ 0 ∨ bits (stepLo w) 31 12 ≠ 0 ∨ stepHi w ≠ 0 ∨ stepUnit w ≠ 0 ∨ bits w.toNat 63 16 ≠ 0 then
    goTo s e.tile e.ctx (x.noteStatus .reserved) (stepNext w)
  else goTo s e.tile e.ctx x (predNext w x.flags)

/-- PRED (03 R79). -/
def execPred (tile ctx : Nat) (s : State) : Host.Outcome State Fault Refusal :=
  .next (match envAt s tile ctx .ready with
    | some e => if stepClass e.word = 0x01 then doPred (issued s tile ctx) e else s
    | none => s)

/-- STEP_TABLE_REFETCH (09 R239; 03 R69): the word is rewritten from the quarter controller's copy. -/
def execStepTableRefetch (tile index : Nat) (s : State) : Host.Outcome State Fault Refusal :=
  .next { s with tiles := { s.tiles with
    table := SMap.set none s.tiles.table (4096 * tile + index % 4096)
      (SMap.get none s.tiles.tableCopy (4096 * tile + index % 4096)) } }

end Sys2Proof.Machine
end

