-- ==== Sys2Proof/Machine/Lofts.lean ====
section
/-! DEFINITION. Lofts told to give up lines, fences and fills (08 R221 to R225, R228). -/
namespace Sys2Proof.Machine

/-- Quarters in service, whose base dies take part. -/
def servingQuarters (s : State) : List Nat := [0, 1, 2, 3].filter fun q => (quarterOf s q).inService

/-- A loft drops every line that a base die homes (08 R225); fills of such lines are marked. `overflow` counts an
OVERFLOW_DROPS order. -/
def Loft.dropHome (s : State) (home : Nat) (overflow : Bool) (l : Loft) : Loft :=
  let homed := fun g => (placement s g).1 / 128 == home
  { l with lines := l.lines.filter fun x => !homed x.1
           fills := l.fills.map fun f => if homed f.line then { f with marked := true } else f
           ovDrops := if overflow then wrapAdd 64 l.ovDrops 1 else l.ovDrops }

/-- What a loft does with an order that reaches it (08 R223 to R225). -/
def loftOrder (s : State) (die : Nat) (o : InvalOrder) : State :=
  match o with
  | .fence lines => setLoft s die (lines.foldl (Loft.invalidate · false ·) (loftOf s die))
  | .external line => setLoft s die ((loftOf s die).invalidate true line)
  | .drop home => setLoft s die ((loftOf s die).dropHome s home true)

/-- A base die's part of a fence of a field: it takes its log, sends it to the other lofts and clears it (08 R225). -/
def fenceDie (f : Nat) (s : State) (die : Nat) : State :=
  let g := SMap.get {} s.mem.logs (16 * die + f)
  let o := if g.overflow then InvalOrder.drop die else .fence g.lines
  let others := (servingQuarters s).filter (· != die)
  let s := others.foldl (fun s d => loftOrder s d o) s
  { s with mem := { s.mem with logs := SMap.erase s.mem.logs (16 * die + f) } }

/-- A fence of a field, whole (08 R225). -/
def fence (s : State) (f : Nat) : State := (servingQuarters s).foldl (fenceDie f) s

/-- Whether a fence from a quarter reaches every base die in service (01 R19). -/
def fenceReaches (s : State) (q : Nat) : Bool := (servingQuarters s).all fun d => ringReaches s q d

/-- A field's log entries cleared and every loft's remote lines dropped, at a field reset or reload (08 R228). -/
def clearFieldLogs (s : State) (f : Nat) : State :=
  { s with mem := { s.mem with
      logs := [0, 1, 2, 3].foldl (fun m d => SMap.erase m (16 * d + f)) s.mem.logs
      lofts := SMap.mapAll {} s.mem.lofts fun _ l => { l with lines := [], fills := l.fills.map fun x => { x with marked := true } } } }

/-- The base dies that send an order: those that home its lines (08 R223, R225). -/
def orderHomes (s : State) : InvalOrder → List Nat
  | .fence lines => lines.map fun g => (placement s g).1 / 128
  | .external line => [(placement s line).1 / 128]
  | .drop home => [home % 4]

/-- LOFT_INVALIDATION (08 R223 to R225). An order that a split ring cuts off waits (01 R19). -/
def execLoftInvalidation (die : Nat) (order : InvalOrder) (s : State) : Host.Outcome State Fault Refusal :=
  .next (if (orderHomes s order).all fun h => ringReaches s h (die % 4) then loftOrder s (die % 4) order else s)

/-- Way p / 32,768 of the ways in service, of set p, as 16·set + way (08 R221). -/
def Loft.wayOf (l : Loft) (p : Nat) : Nat := 16 * (p % 32768) + p / 32768 % l.ways

/-- The place of a line to be installed: the set and way picked, which are free (08 R221; log 5), or the next that is not
disabled (09 R239). -/
def Loft.pickPlace (l : Loft) (pick : Nat) : Nat :=
  (((List.range (l.disabled.length + 1)).map fun k => l.wayOf (pick + k)).find? fun p => !l.disabled.contains p).getD (l.wayOf pick)

/-- A line installed in place of what its place holds, with the bits of it that upset while it is held. -/
def Loft.install (pick : Nat) (upsets : List (Nat × BitVec 144)) (l : Loft) (f : LoftFill) : Loft :=
  let p := l.pickPlace pick
  let lines := l.lines.filter fun x => SMap.get 0 l.places x.1 != p
  let flips := l.flips.filter fun x => x.1 / 16 != f.line
  { l with lines := SMap.insert (SMap.erase lines f.line) f.line f.data, places := SMap.set 0 l.places f.line p
           flips := upsets.foldl (fun m u => SMap.modify 0 m (16 * f.line + u.1 % 16) (· ^^^ u.2)) flips
           filled := wrapAdd 64 l.filled 1 }

/-- LOFT_FILL_RETURN (08 R221, R224): the oldest fill of the line ends, and the line is installed unless it was marked. A fill
that a split ring cuts off waits (01 R19). `upsets`: bits of the line's words that upset while the loft holds it, each a word
of the line and its flips (09 R239; log 8). -/
def execLoftFillReturn (die line : Nat) (upsets : List (Nat × BitVec 144)) (s : State) : Host.Outcome State Fault Refusal :=
  let l := loftOf s (die % 4)
  .next (match l.fills.find? fun f => f.line == line with
    | none => s
    | some f =>
      if !f.marked && !ringReaches s (die % 4) ((placement s line).1 / 128) then s
      else
        let l := { l with fills := l.fills.erase f }
        { setLoft s (die % 4) (if f.marked then l else l.install (Config.loftPlace s.fresh) upsets f) with fresh := s.fresh + 1 })

/-- FENCE's checks: every operand field is zero (08 R219, R220). -/
def doFence (s : State) (e : Env) : StepEnd :=
  if !operandsAllZero e.word then .fail s .reserved
  else if !fenceReaches s e.quarter then .block s
  else .done (fence s e.field) .ok []
where
  operandsAllZero (w : BitVec 128) : Bool := bits w.toNat 113 16 == 0

/-- FENCE (08 R225). -/
def execFence (tile ctx : Nat) (s : State) : Host.Outcome State Fault Refusal :=
  .next (runStep s tile ctx 0x06 (· == 2) doFence)

end Sys2Proof.Machine
end

