-- ==== Sys2Proof/Machine/Sync.lean ====
section
/-! DEFINITION. Barrier units, signal words, wake wires and the SYNC steps (03 R82, R83; 11 R281 to R295). -/
namespace Sys2Proof.Machine

/-! ### Wake wires (11 R281, R282) -/

/-- A pulse sent on wire w of a quarter. -/
def pulseWire (s : State) (q w : Nat) : State :=
  { s with sync := { s.sync with sent := SMap.modify 0 s.sync.sent (64 * q + w) (· + 1) } }

/-! ### Barrier units (11 R285 to R288) -/

def barrierOf (s : State) (q u : Nat) : Barrier := SMap.get {} s.sync.barriers (64 * q + u)
def setBarrier (s : State) (q u : Nat) (b : Barrier) : State :=
  { s with sync := { s.sync with barriers := SMap.set {} s.sync.barriers (64 * q + u) b } }

/-- The bits of a context at a unit: 1 ARRIVED_BIT, 2 EARLY_BIT, 4 known participant. -/
def Barrier.bitsOf (b : Barrier) (tile ctx : Nat) : Nat := SMap.get 0 b.bits (16 * tile + ctx)
def Barrier.setBits (b : Barrier) (tile ctx v : Nat) : Barrier := { b with bits := SMap.set 0 b.bits (16 * tile + ctx) v }

/-- An arrival (11 R285, R288): the unit, and whether it is refused with E_EARLY_TWICE. -/
def Barrier.arrive (b : Barrier) (tile ctx : Nat) : Barrier × Bool :=
  let v := b.bitsOf tile ctx
  let b := if v / 4 % 2 = 0 then { b with seen := b.seen + 1 } else b
  if v % 2 = 0 then ({ b.setBits tile ctx (v % 4 + 5) with arrived := b.arrived + 1 }, false)
  else if v / 2 % 2 = 0 then ({ b.setBits tile ctx (v % 4 + 6) with early := b.early + 1 }, false)
  else ({ b with earlyTwice := satAdd 32 b.earlyTwice 1 }, true)

/-- Whether the unit releases (11 R287). -/
def Barrier.full (b : Barrier) : Bool := 1 ≤ b.count && b.count ≤ b.arrived

/-- One release (11 R287, items 1 to 3). -/
def Barrier.release (b : Barrier) : Barrier :=
  { b with round := b.round + 1, releases := b.releases + 1, arrived := b.early, early := 0
           bits := SMap.mapAll 0 b.bits fun _ v => v / 4 * 4 + v / 2 % 2 }

/-- The releases of a unit, each with its pulse (11 R287). After two there is no arrival left to release a third. -/
def settleBarrier (s : State) (q u : Nat) : State :=
  let once := fun s => let b := barrierOf s q u
    if b.full then pulseWire (setBarrier s q u b.release) q b.wake else s
  once (once s)

/-- What quarantining a tile takes from a unit (11 R288). -/
def Barrier.leaveTile (b : Barrier) (tile : Nat) : Barrier :=
  let mine := b.bits.filter fun p => p.1 / 16 == tile
  let n := fun k => (mine.filter fun p => p.2.testBit k).length
  { b with count := b.count - n 2, seen := b.seen - n 2, arrived := b.arrived - n 0, early := b.early - n 1
           bits := b.bits.filter fun p => p.1 / 16 != tile }

/-! ### Signal words (11 R290, R291) -/

def signalOf (s : State) (q w : Nat) : BitVec 32 := SMap.get 0 s.sync.words (4096 * q + w)
def attrOf (s : State) (q w : Nat) : Attr := SMap.get {} s.sync.attrs (4096 * q + w)

/-- A signal write at its word: added, and the word's wire pulsed; dropped with a record where no field owns the word
(11 R291; 02 R64). `source` is that of 15 R398 class 0x0B. -/
def applySignal (s : State) (source q w : Nat) (inc : BitVec 32) : State :=
  let a := attrOf s q w
  if a.field = 0xFF then
    logFault s { mkFault s 0x0B .ok q with detail := BitVec.ofNat 512 source, unitClass := 0x0B, unitIndex := 0x1000 + w
                                           addr := quarterWindow q + 0x20000 + 4 * w }
  else
    pulseWire { s with sync := { s.sync with words := SMap.set 0 s.sync.words (4096 * q + w) (signalOf s q w + inc) } } q a.wake

/-- A signal write from a quarter: one that would cross a split ring waits (01 R19). -/
def sendSignal (s : State) (source origin q w : Nat) (inc : BitVec 32) : State :=
  if ringReaches s origin q then applySignal s source q w inc
  else { s with ports := { s.ports with stalled := s.ports.stalled ++ [.signal source origin q w inc] } }

/-- A word has reached a threshold (03 R83). -/
def signalReached (v threshold : BitVec 32) : Bool := !(v - threshold).msb

/-- Whether a wait's condition holds (03 R83). A collective command's wait ends by its own event. -/
def waitHolds (s : State) : Wait → Bool
  | .barrier unit round => !((SMap.get {} s.sync.barriers unit).round - (round + 1)).msb
  | .signal word t => signalReached (SMap.get 0 s.sync.words word) t
  | .coll _ => false

/-! ### Operands (03 R82) -/

def syncQuarter (w : BitVec 128) : Nat := bits (stepHi w) 13 12
def syncWire (w : BitVec 128) : Nat := bits (stepHi w) 11 6
def syncUnit (w : BitVec 128) : Nat := bits (stepHi w) 5 0
def syncWord (w : BitVec 128) : Nat := bits (stepA w) 11 0
def syncThreshold (w : BitVec 128) : BitVec 32 := BitVec.ofNat 32 (65536 * stepB w + stepD w)
/-- A timeout of 0 means 2^32 ticks. -/
def syncTimeout (w : BitVec 128) : Nat := if stepLo w = 0 then 2 ^ 32 else stepLo w

/-- The status of a SYNC step's operands: `unit`, `word`, `wait` say what the operation uses (03 R76, R82; 11 R284). -/
def syncStatus (s : State) (e : Env) (unit word wait : Bool) : Status :=
  let w := e.word
  let q := syncQuarter w
  let b := barrierOf s q (syncUnit w)
  let a := attrOf s q (syncWord w)
  Status.lowest
    [ (stepUnit w != 0 || (!unit && syncUnit w != 0) || (!word && (stepA w != 0 || stepB w != 0 || stepD w != 0))
        || bits (stepA w) 15 12 != 0 || (!wait && (syncWire w != 0 || stepLo w != 0)), .reserved),
      (unit && (b.field != e.field || (wait && syncWire w != b.wake)), .range),
      (word && (a.field != e.field || (wait && syncWire w != a.wake)), .range),
      (quarterHeld s q, .busy) ]

/-- Whether a SYNC step's transfer would cross a split ring (01 R19). -/
def syncCut (s : State) (e : Env) : Bool := !ringReaches s e.quarter (syncQuarter e.word)

/-- An arrival of the issuing context at the unit that the step names, with the releases it causes. -/
def arriveAt (s : State) (e : Env) : State × Bool :=
  let q := syncQuarter e.word
  let u := syncUnit e.word
  let (b, twice) := (barrierOf s q u).arrive e.tile e.ctx
  (settleBarrier (setBarrier s q u b) q u, twice)

/-- ARRIVE (11 R285). -/
def doArrive (s : State) (e : Env) : StepEnd :=
  if 1 ≤ stepOp e.word ∧ stepOp e.word ≤ 6 then
    let st := syncStatus s e true false false
    if st ≠ .ok then .fail s st
    else if syncCut s e then .block s
    else
      let (s, twice) := arriveAt s e
      .done s (if twice then .earlyTwice else .ok) []
  else .fail s .reserved

/-- A SYNC wait that a step ends with: TIMEOUT and ABANDONED follow its status (03 R80). -/
def waitFlags (st : Status) : List (Nat × Bool) := [(flagTimeout, st == .timeout), (flagAbandoned, st == .abandoned)]

/-- The wait of a context on the unit that its step names (11 R283, R286). -/
def waitOn (s : State) (e : Env) : StepEnd :=
  let q := syncQuarter e.word
  let u := syncUnit e.word
  let b := barrierOf s q u
  let v := b.bitsOf e.tile e.ctx
  let sleep := fun r => StepEnd.sleep s ⟨.barrier (64 * q + u) r, 64 * q + syncWire e.word, s.power.sclk, syncTimeout e.word⟩
  if v / 2 % 2 = 1 then sleep (b.round + 1)
  else if v % 2 = 1 then sleep b.round
  else .done s .ok (waitFlags .ok)

/-- WAIT (11 R286). -/
def doWait (s : State) (e : Env) : StepEnd :=
  let st := syncStatus s e true false true
  if st ≠ .ok then .done s st (waitFlags st)
  else if syncCut s e then .block s
  else waitOn s e

/-- ARRIVE_WAIT (11 R284). -/
def doArriveWait (s : State) (e : Env) : StepEnd :=
  let st := syncStatus s e true false true
  if st ≠ .ok then .done s st (waitFlags st)
  else if syncCut s e then .block s
  else
    let (s, twice) := arriveAt s e
    if twice then .done s .earlyTwice (waitFlags .earlyTwice) else waitOn s e

/-- SIGNAL (11 R292). -/
def doSignal (s : State) (e : Env) : StepEnd :=
  let st := syncStatus s e false true false
  if st ≠ .ok then .fail s st
  else if syncCut s e then .block s
  else .done (applySignal s 0 (syncQuarter e.word) (syncWord e.word) (syncThreshold e.word)) .ok []

/-- SIGNAL_FENCED (11 R284, R292): the fence, then the signal. -/
def doSignalFenced (s : State) (e : Env) : StepEnd :=
  let st := syncStatus s e false true false
  if st ≠ .ok then .fail s st
  else if syncCut s e ∨ !fenceReaches s e.quarter then .block s
  else .done (applySignal (fence s e.field) 0 (syncQuarter e.word) (syncWord e.word) (syncThreshold e.word)) .ok []

/-- WAIT_SIGNAL (03 R83; 11 R283). -/
def doWaitSignal (s : State) (e : Env) : StepEnd :=
  let st := syncStatus s e false true true
  let q := syncQuarter e.word
  let w := 4096 * q + syncWord e.word
  let c := Wait.signal w (syncThreshold e.word)
  if st ≠ .ok then .done s st (waitFlags st)
  else if syncCut s e then .block s
  else if waitHolds s c then .done s .ok (waitFlags .ok)
  else .sleep s ⟨c, 64 * q + syncWire e.word, s.power.sclk, syncTimeout e.word⟩

def execArrive (tile ctx : Nat) (s : State) : Host.Outcome State Fault Refusal :=
  .next (runStep s tile ctx 0x02 (fun op => op == 1 || op == 0 || 7 ≤ op) doArrive)
def execWait (tile ctx : Nat) (s : State) : Host.Outcome State Fault Refusal :=
  .next (runStep s tile ctx 0x02 (· == 2) doWait)
def execArriveWait (tile ctx : Nat) (s : State) : Host.Outcome State Fault Refusal :=
  .next (runStep s tile ctx 0x02 (· == 3) doArriveWait)
def execSignal (tile ctx : Nat) (s : State) : Host.Outcome State Fault Refusal :=
  .next (runStep s tile ctx 0x02 (· == 4) doSignal)
def execSignalFenced (tile ctx : Nat) (s : State) : Host.Outcome State Fault Refusal :=
  .next (runStep s tile ctx 0x02 (· == 5) doSignalFenced)
def execWaitSignal (tile ctx : Nat) (s : State) : Host.Outcome State Fault Refusal :=
  .next (runStep s tile ctx 0x02 (· == 6) doWaitSignal)

/-! ### Waking (03 R83; 11 R282) -/

/-- The sleeping step of a context ends with a status. -/
def endWait (s : State) (tile ctx : Nat) (st : Status) : State :=
  let x := ctxOf s tile ctx
  match stepEntry s tile x.step with
  | some e => endStep tile ctx e.word (.done (countSleep s tile ctx) st (waitFlags st))
  | none => s

/-- A sleeping context that a pulse of a wire wakes tests its condition. -/
def wakeCtx (wire tile : Nat) (s : State) (ctx : Nat) : State :=
  let x := ctxOf s tile ctx
  match x.state, x.waiting with
  | .sleeping, some w => if w.wire = wire ∧ waitHolds s w.cond then endWait s tile ctx .ok else s
  | _, _ => s

/-- WAKE_PULSE (11 R281, R282; 03 R83): a tile serves the pulses of a wire that it has latched. In idle a pulse stays latched
(15 R413), and across a split ring it waits (01 R19). -/
def execWakePulse (quarter wire tile : Nat) (s : State) : Host.Outcome State Fault Refusal :=
  let w := 64 * (quarter % 4) + wire % 64
  let i := 2304 * w + tile
  .next (
    if SMap.get 0 s.sync.served i < SMap.get 0 s.sync.sent w ∧ tileRuns s tile
        ∧ ringReaches s (quarter % 4) (tileQuarter tile) then
      let s := { s with sync := { s.sync with served := SMap.set 0 s.sync.served i (SMap.get 0 s.sync.sent w) } }
      (List.range 16).foldl (wakeCtx w tile) s
    else s)

/-- Whether a wait's timeout may have expired: sclk is known to its last microsecond (log 8). -/
def Waiting.due (w : Waiting) (sclk : Nat) : Bool := w.start + w.timeout ≤ sclk + 99

/-- Whether the read of a condition reaches its base die: a barrier's is known from the release, a signal word is read where it
lies (03 R83; 01 R19). -/
def condReaches (s : State) (tile : Nat) : Wait → Bool
  | .signal w _ => ringReaches s (tileQuarter tile) (w / 4096)
  | _ => true

/-- WAIT_TIMEOUT (03 R83). -/
def execWaitTimeout (tile ctx : Nat) (s : State) : Host.Outcome State Fault Refusal :=
  let x := ctxOf s tile ctx
  .next (match x.state, x.waiting with
    | .sleeping, some w =>
      match w.cond with
      | .coll _ => s
      | c => if w.due s.power.sclk ∧ tileRuns s tile ∧ condReaches s tile c then endWait s tile ctx (if waitHolds s c then .ok else .timeout) else s
    | _, _ => s)

end Sys2Proof.Machine
end

