-- ==== Sys2Proof/Machine/Queues.lean ====
section
/-! DEFINITION. Work queues, gleaning, the deferred pool (03 R92 to R99, R104), the selection of items for a repeat check (15
R405) and the end of an item (03 R95; 15 R408). -/
namespace Sys2Proof.Machine

/-! ### Queues (03 R92) -/

def queueOf (s : State) (tile f : Nat) : Queue := SMap.get {} s.tiles.queues (16 * tile + f)
def setQueue (s : State) (tile f : Nat) (q : Queue) : State :=
  { s with tiles := { s.tiles with queues := SMap.set {} s.tiles.queues (16 * tile + f) q } }

/-- The address of a queue's slot. -/
def queueSlot (fd : Field) (tile n : Nat) : Nat := padAddr tile (0x20000 * fd.lowBank + 64 * (n % 256))

/-- The 64 bytes at an address as a word. -/
def itemAt (s : State) (loft : Option Nat) (a : Nat) : BitVec 512 := BitVec.ofNat 512 (leNat (seeBytes s loft a 64))

/-- The slot of a queue's tail item. -/
def Queue.tailSlot (q : Queue) : Nat := (q.head + q.count + 255) % 256

def quarantined (s : State) (tile : Nat) : Bool := SMap.get 0 s.tiles.quarantine tile != 0

def bumpCounters (s : State) (tile : Nat) (f : TileCounters → TileCounters) : State :=
  { s with tiles := { s.tiles with counters := SMap.modify {} s.tiles.counters tile f } }

/-- Accesses run only when every word reads well: the first word of the runs that does not. -/
def badRun (s : State) (runs : List (Nat × Nat)) : Bool :=
  runs.any fun r => (flippedWords s r.1 r.2).any fun w => (readWord s w).bad

/-! ### Lists and pools (03 R93, R98) -/

/-- The conditions on the form of a list's descriptor (03 R93). -/
def listForm (s : State) (e : Env) (slot count : Nat) : List (Bool × Status) :=
  let c := operandConds s e slot .zero (· == .none) false
  if (slotConds s e slot).any (·.1) then c
  else
    let o := operand s e slot .zero
    c ++ [ (o.d.layout != 0 || o.d.rank != 1 || o.d.base % 64 != 0 || o.d.ext.i0 < count, .range) ]

/-- What the read of a list touches, when its form passes. -/
def listTouches (s : State) (e : Env) (slot count : Nat) : List (Bool × List (Nat × Nat)) :=
  if (listForm s e slot count).any (·.1) then [] else [(false, [((operand s e slot .zero).d.base, 64 * count)])]

/-- The conditions on a list. -/
def listConds (s : State) (e : Env) (slot count : Nat) : List (Bool × Status) :=
  listForm s e slot count
    ++ (if (slotConds s e slot).any (·.1) then [] else runConds s e false [((operand s e slot .zero).d.base, 64 * count)])

/-- The items of a list as the tile sees them. -/
def listItems (s : State) (e : Env) (slot count : Nat) : List (BitVec 512) :=
  let d := (operand s e slot .zero).d
  (List.range count).map fun i => itemAt s (some e.quarter) (d.base + 64 * i)

/-! ### ENQUEUE (03 R93) -/

/-- The target tile of an ENQUEUE. Its item count lies in COUNT_HI, because IMM takes COUNT_LO (log 15). -/
def enqueueTarget (e : Env) : Nat := if bit (stepLo e.word) 12 then e.tile else stepLo e.word % 4096

def enqueueConds (s : State) (e : Env) : List (Bool × Status) :=
  let n := stepHi e.word
  let t := enqueueTarget e
  [ (stepUnit e.word != 0 || bits (stepLo e.word) 31 13 != 0, .reserved),
    (n < 1 || 256 < n, .range), (!e.fd.onTile t, .range), (quarantined s t, .quarantined) ]
    ++ listConds s e (stepA e.word) n

/-- The conditions on the items of a list. -/
def itemConds (items : List (BitVec 512)) (deferred : Bool) : List (Bool × Status) :=
  [ (items.any itemReserved, .reserved), (items.any fun i => !itemValid i || (!deferred && itemDeferred i), .range) ]

def doEnqueue (s : State) (e : Env) : StepEnd :=
  if stepOp e.word ≠ 1 then .fail s .reserved
  else
    let n := stepHi e.word
    let t := enqueueTarget e
    let slots := issueSlots s e [stepA e.word] [] []
    let s := readSlots s e slots
    let st := Status.lowest (enqueueConds s e)
    let base := (operand s e (stepA e.word) .zero).d.base
    if st ≠ .ok then .done (recordRefused s e st (listTouches s e (stepA e.word) n)) st [(flagFull, false)]
    else if runsCut s e [(base, 64 * n), (padAddr t 0, 1)] then .block (latch s e slots)
    else
      let items := listItems s e (stepA e.word) n
      let (s, rst) := runAccs s e [.rd base (64 * n) true false]
      let st := if rst ≠ .ok then rst else Status.lowest (itemConds items false)
      let q := queueOf s t e.field
      if st ≠ .ok then .done s st [(flagFull, false)]
      else if q.count + n > 256 then .done s .ok [(flagFull, true)]
      else
        let writes := (List.range n).map fun i => writeAcc (queueSlot e.fd t (q.head + q.count + i)) (leBytes 64 (items.getD i 0).toNat)
        let (s, wst) := runAccs s e writes
        .done (setQueue s t e.field { q with count := q.count + n }) wst [(flagFull, false)]

/-- ENQUEUE, and the reserved QUEUE operations (log 1). -/
def execEnqueue (tile ctx : Nat) (s : State) : Host.Outcome State Fault Refusal :=
  .next (runStep s tile ctx 0x03 (fun op => op == 1 || op == 0 || 4 ≤ op) doEnqueue)

/-! ### Repeat selection (15 R405) -/

/-- The tiles of a plot at a distance ring from a tile's, in the search order of 03 R97. -/
def ringTiles (tile d : Nat) : List Nat :=
  let p := tilePlot tile
  let all := (rangeFrom (576 * tileQuarter tile) 576).filter fun t => plotDistance p (tilePlot t) == d && t != tile
  all.filter (tile < ·) ++ all.filter (· < tile)

/-- The search order of 03 R97. -/
def searchOrder (tile : Nat) : List Nat := ringTiles tile 0 ++ ringTiles tile 1 ++ ringTiles tile 2

/-- The check of a selected item: its copy tile and third tile. Without both, or with the copy tile's check context taken,
nothing is compared (15 R405, R407; log 15). -/
def selectCheck (s : State) (fd : Field) (tile : Nat) : RepeatCheck :=
  let l := (searchOrder tile).filter fun t => fd.onTile t && !quarantined s t
  if 2 ≤ l.length ∧ (SMap.get none s.tiles.checks (l.getD 0 0)).isNone then
    ⟨some (l.getD 0 0), some (l.getD 1 0), s.power.sclk, none, none, false⟩
  else ⟨none, none, s.power.sclk, none, some .notCompared, false⟩

/-- Whether TAKE selects an item for a repeat check. -/
def selects (s : State) (fd : Field) (tile : Nat) (item : BitVec 512) : Bool :=
  fd.repeatDenom != 0 && !itemAffinity item
    && (itemSeq item).toNat % fd.repeatDenom == (keyStep (roundingKey s fd tile)).toNat % fd.repeatDenom

/-- Counts an outcome that the quarter's fault summary takes (15 R407). -/
def countOutcome (s : State) (q : Nat) (o : RepeatOutcome) : State :=
  let f := fun (x : Quarter) => match o with
    | .notComparable => { x with repeat6 := x.repeat6 + 1 }
    | .notCompared => { x with repeat7 := x.repeat7 + 1 }
    | _ => x
  { s with power := { s.power with quarters := SMap.modify {} s.power.quarters q f } }

/-- An item enters a context: the item registers, the return index and the check, and flow goes to ENTRY (03 R93, R94). -/
def enterItem (s : State) (tile ctx : Nat) (fd : Field) (item : BitVec 512) (checked : Bool) : State :=
  let x := ctxOf s tile ctx
  let chk := if checked ∧ selects s fd tile item then some (selectCheck s fd tile) else none
  let s := match chk with
    | some c =>
      let s := match c.outcome with
        | some o => countOutcome s (tileQuarter tile) o
        | none => s
      match c.copyTile with
      | some t => { s with tiles := { s.tiles with checks := SMap.set none s.tiles.checks t (some ⟨tile, ctx⟩) } }
      | none => s
    | none => s
  let x := { x with item := some item, ret := x.step, gleaning := false, digest := 0, check := chk
                    flags := setFlags x.flags [(flagErr, false), (flagEmpty, false)] }
  goTo s tile ctx x (itemEntry item)

/-! ### TAKE (03 R94 to R99) -/

/-- A pool's control block (03 R98). -/
structure PoolBlock where
  head     : Nat
  tail     : Nat
  headSlot : Nat
  tailSlot : Nat
  reserved : Bool
  deriving DecidableEq, Repr

def PoolBlock.parse (bs : List Byte) : PoolBlock :=
  let x := leNat bs
  ⟨bits x 31 0, bits x 63 32, bits x 95 64, bits x 127 96, bits x 511 128 != 0⟩

def PoolBlock.held (p : PoolBlock) : Nat := (p.tail + 2 ^ 32 - p.head) % 2 ^ 32

def PoolBlock.bytes (p : PoolBlock) : List Byte := leBytes 64 (pack [(0, p.head), (32, p.tail), (64, p.headSlot), (96, p.tailSlot)])

/-- The home's check of a control block (03 R98). -/
def PoolBlock.status (p : PoolBlock) (ext : Nat) : Status :=
  Status.lowest [(p.reserved, .reserved), (ext ≤ p.headSlot || ext ≤ p.tailSlot || ext < p.held, .range)]

/-- The conditions on the form of a pool's descriptor (03 R98). -/
def poolForm (s : State) (e : Env) (slot : Nat) : List (Bool × Status) :=
  let c := operandConds s e slot .zero (· == .none) false
  if (slotConds s e slot).any (·.1) then c
  else
    let d := (operand s e slot .zero).d
    c ++ [ (d.layout != 0 || d.rank != 1 || d.base % 256 != 0 || d.ext.i0 == 0, .range) ]

/-- What an access to a pool touches, when its form passes. -/
def poolTouches (s : State) (e : Env) (slot : Nat) : List (Bool × List (Nat × Nat)) :=
  let d := (operand s e slot .zero).d
  if (poolForm s e slot).any (·.1) then [] else [(true, [(d.base, 64 + 64 * d.ext.i0)])]

/-- The conditions on a pool. -/
def poolConds (s : State) (e : Env) (slot : Nat) : List (Bool × Status) :=
  let d := (operand s e slot .zero).d
  poolForm s e slot
    ++ (if (slotConds s e slot).any (·.1) then []
      else [(!runAllowed s .tile true d.base (64 + 64 * d.ext.i0) || stackTop s < d.base + 64 + 64 * d.ext.i0, .range)])

/-- Whether the pool has nothing to give: EMPTY is set and flow goes on at NEXT. -/
def takeNone (s : State) (st : Status) : StepEnd := .done s st [(flagEmpty, true)]

/-- The third place of 03 R94: one item of the pool named by TAKE's DESC_A. -/
def takePool (s : State) (e : Env) : StepEnd :=
  if stepA e.word = 0xFFFF then takeNone s .ok
  else
    let d := (operand s e (stepA e.word) .zero).d
    if runBusy s d.base 64 then takeNone s .busy
    else if runsCut s e [(d.base, 64)] then .block s
    else
      let p := PoolBlock.parse (seeBytes s none d.base 64)
      let st := p.status d.ext.i0
      if st ≠ .ok then takeNone s st
      else if p.held = 0 then takeNone s .ok
      else
        let a := d.base + 64 + 64 * p.headSlot
        if runBusy s a 64 then takeNone s .busy
        else if runsCut s e [(a, 64)] then .block s
        else
          let item := itemAt s none a
          let (s, rst) := runAccs s e [.rd d.base 64 false false, .rd a 64 false false]
          if rst ≠ .ok then takeNone s rst
          else
            let p := { p with head := (p.head + 1) % 2 ^ 32, headSlot := (p.headSlot + 1) % d.ext.i0 }
            let (s, _) := runAccs s e [writeAcc d.base p.bytes]
            let s := bumpCounters s e.tile fun c => { c with pool := wrapAdd 64 c.pool 1 }
            .flight (enterItem s e.tile e.ctx e.fd item false)

/-- TAKE: the own queue first, else a gleaning request (03 R94, R97). -/
def doTake (s : State) (e : Env) : StepEnd :=
  let slots := issueSlots s e [stepA e.word] [] []
  let s := readSlots s e slots
  let st := Status.lowest ((stepUnit e.word != 0, .reserved) ::
    (if stepA e.word = 0xFFFF then [] else poolConds s e (stepA e.word)))
  if st ≠ .ok then takeNone (recordRefused s e st (if stepA e.word = 0xFFFF then [] else poolTouches s e (stepA e.word))) st
  else
    let q := queueOf s e.tile e.field
    if q.count = 0 then
      let s := latch s e slots
      .flight (setCtx s e.tile e.ctx { ctxOf s e.tile e.ctx with gleaning := true })
    else
      let a := queueSlot e.fd e.tile q.head
      let (s, rst) := runAccs s e [.rd a 64 false false]
      if rst ≠ .ok then takeNone s rst
      else
        let s' := setQueue s e.tile e.field ⟨(q.head + 1) % 256, q.count - 1⟩
        let s' := bumpCounters s' e.tile fun c => { c with own := wrapAdd 64 c.own 1 }
        .flight (enterItem s' e.tile e.ctx e.fd (itemAt s none a) true)

/-- TAKE (03 R94). -/
def execTake (tile ctx : Nat) (s : State) : Host.Outcome State Fault Refusal :=
  .next (runStep s tile ctx 0x03 (· == 2) doTake)

/-! ### Gleaning (03 R96, R97, R104) -/

/-- The put-back items of a field on a tile. -/
def putBackOf (s : State) (tile f : Nat) : List (BitVec 512) :=
  ((SMap.get [] s.tiles.putBack tile).filter (·.1 == f)).map (·.2)

/-- Whether a tile holds an item of a field open to gleaning. -/
def openToGlean (s : State) (fd : Field) (f tile : Nat) : Bool :=
  fd.onTile tile &&
  (!(putBackOf s tile f).isEmpty ||
    (let q := queueOf s tile f
     q.count != 0 && (quarantined s tile || !itemAffinity (itemAt s none (queueSlot fd tile q.tailSlot)))))

/-- An item taken from a tile so chosen: a put-back item before any queue item. -/
def gleanFrom (s : State) (fd : Field) (f tile : Nat) : State × BitVec 512 :=
  let s' := bumpCounters s tile fun c => { c with gleanedOut := wrapAdd 64 c.gleanedOut 1 }
  let held := SMap.get [] s.tiles.putBack tile
  match held.find? (·.1 == f) with
  | some p => ({ s' with tiles := { s'.tiles with putBack := SMap.set [] s'.tiles.putBack tile (held.erase p) } }, p.2)
  | none =>
    let q := queueOf s tile f
    (setQueue s' tile f { q with count := q.count - 1 }, itemAt s none (queueSlot fd tile q.tailSlot))

/-- The read of the item that a gleaner would take from a tile: a put-back item is no memory (03 R97, R104). -/
def gleanRead (s : State) (e : Env) (tile : Nat) : State × Status :=
  if !(putBackOf s tile e.field).isEmpty then (s, .ok)
  else runAccs s e [.rd (queueSlot e.fd tile (queueOf s tile e.field).tailSlot) 64 false false]

/-- GLEAN_ANSWER (03 R97): the first tile in the search order with an open item, else the pool. -/
def execGleanAnswer (tile ctx : Nat) (s : State) : Host.Outcome State Fault Refusal :=
  let x := ctxOf s tile ctx
  .next (match envAt s tile ctx .running with
    | some e =>
      if x.gleaning then
        match (searchOrder tile).find? (openToGlean s e.fd e.field) with
        | some t =>
          let (s, rst) := gleanRead s e t
          if rst ≠ .ok then endStep tile ctx e.word (takeNone (setCtx s tile ctx { ctxOf s tile ctx with gleaning := false }) rst)
          else
            let (s, item) := gleanFrom s e.fd e.field t
            let s := bumpCounters s tile fun c => { c with gleanedIn := wrapAdd 64 c.gleanedIn 1 }
            enterItem s tile ctx e.fd item true
        | none => endStep tile ctx e.word (takePool (setCtx s tile ctx { x with gleaning := false }) e)
      else s
    | none => s)

/-! ### POOL_PUT (03 R93, R98) -/

def doPoolPut (s : State) (e : Env) : StepEnd :=
  let n := stepCount e.word
  let slots := issueSlots s e [stepA e.word, stepB e.word] [] []
  let s := readSlots s e slots
  let st := Status.lowest ([ (stepUnit e.word != 0, .reserved), (n < 1 || 65536 < n, .range) ]
    ++ poolConds s e (stepA e.word) ++ (if 65536 < n then [] else listConds s e (stepB e.word) n))
  let pool := (operand s e (stepA e.word) .zero).d
  let list := (operand s e (stepB e.word) .zero).d
  let fail := fun s st => StepEnd.done s st [(flagFull, false)]
  if st ≠ .ok then
    .done (recordRefused s e st (if 65536 < n then [] else poolTouches s e (stepA e.word) ++ listTouches s e (stepB e.word) n)) st
      [(flagFull, false)]
  else if runBusy s pool.base 64 then fail s .busy
  else
    let p := PoolBlock.parse (seeBytes s none pool.base 64)
    let places := (List.range n).map fun i => pool.base + 64 + 64 * ((p.tailSlot + i) % pool.ext.i0)
    if runsCut s e ((list.base, 64 * n) :: (pool.base, 64) :: places.map fun a => (a, 64)) then .block (latch s e slots)
    else
      let items := listItems s e (stepB e.word) n
      let (s, rst) := runAccs s e [.rd list.base (64 * n) true false, .rd pool.base 64 false false]
      let st := if rst ≠ .ok then rst else Status.lowest (itemConds items true ++ [(p.status pool.ext.i0 != .ok, p.status pool.ext.i0)])
      if st ≠ .ok then fail s st
      else if p.held + n > pool.ext.i0 then .done s .ok [(flagFull, true)]
      else if places.any fun a => runBusy s a 64 then fail s .busy
      else
        let p' := { p with tail := (p.tail + n) % 2 ^ 32, tailSlot := (p.tailSlot + n) % pool.ext.i0 }
        let (s, wst) := runAccs s e ((List.zip places items).map (fun ai => writeAcc ai.1 (leBytes 64 ai.2.toNat)) ++ [writeAcc pool.base p'.bytes])
        .done s wst [(flagFull, false)]

/-- POOL_PUT (03 R93, R98). -/
def execPoolPut (tile ctx : Nat) (s : State) : Host.Outcome State Fault Refusal :=
  .next (runStep s tile ctx 0x03 (· == 3) doPoolPut)

/-! ### ITEM_END (03 R95; 15 R408) -/

/-- Ends the item a context holds: the increment, the record of an item that ends with ERR, and the status. -/
def finishItem (s : State) (e : Env) : State × Status :=
  let x := ctxOf s e.tile e.ctx
  let s := if bit x.flags.toNat flagErr then logFault s (tileFault s 0x0A x.lastStatus e.tile e.ctx e.field) else s
  let (s, st) := match e.item with
    | some i =>
      if itemDoneEn i then
        if (attrOf s (itemDoneQuarter i) (itemDoneWord i)).field = e.field then
          if quarterHeld s (itemDoneQuarter i) then (s, Status.busy)
          else (applySignal s 0 (itemDoneQuarter i) (itemDoneWord i) 1, .ok)
        else (s, .range)
      else (s, .ok)
    | none => (s, .ok)
  let x := ctxOf s e.tile e.ctx
  (setCtx s e.tile e.ctx { x with item := none, check := none, digest := 0 }, st)

/-- Whether ITEM_END's increment would cross a split ring. -/
def itemCut (s : State) (e : Env) : Bool :=
  match e.item with
  | some i => itemDoneEn i && !quarterHeld s (itemDoneQuarter i) && !ringReaches s e.quarter (itemDoneQuarter i)
  | none => false

/-- ITEM_END: it waits for an undecided repeat check, then ends the item and returns (03 R95; 15 R408). -/
def doItemEnd (s : State) (e : Env) : StepEnd :=
  let x := ctxOf s e.tile e.ctx
  if bits e.word.toNat 113 16 ≠ 0 then .fail s .reserved
  else
    match x.check with
    | some c =>
      if c.outcome.isNone then .flight (setCtx s e.tile e.ctx { x with check := some { c with atEnd := true } })
      else itemEnd s e
    | none => itemEnd s e
where
  itemEnd (s : State) (e : Env) : StepEnd :=
    if itemCut s e then .block s
    else
      let (s, st) := finishItem s e
      .jump s st [] (ctxOf s e.tile e.ctx).ret

/-- ITEM_END (03 R95). -/
def execItemEnd (tile ctx : Nat) (s : State) : Host.Outcome State Fault Refusal :=
  .next (runStep s tile ctx 0x00 (· == 2) doItemEnd)

end Sys2Proof.Machine
end

