-- ==== Sys2Proof/Machine/Convert.lean ====
section
/-! DEFINITION. Conversions into a destination tensor: rounding keys and draws (04 R126 to R128), the scale recipes (06 R171 to
R173), and the conversion statistics (06 R166 to R170, R173). -/
namespace Sys2Proof.Machine

/-! ### The destination -/

/-- A destination of conversions: the operand and the tile's rounding key as read at issue (04 R128). -/
structure Dest where
  o   : Operand
  key : Nat
  deriving DecidableEq, Repr

def Dest.fmt (t : Dest) : Fmt := t.o.d.fmt

/-- The rounding mode of element e (04 R126, R127). -/
def Dest.mode (t : Dest) (e : Nat) : Round :=
  if kindStochastic t.o.d.kind then .stochastic (srbits (keySeed t.key) (keyStep t.key) t.o.sg.tensorId e).toNat else .nearest

/-- The rounding key's conditions on a step that converts into a tensor of a kind (04 R128; 09 R239). -/
def keyConds (s : State) (e : Env) (kind : Nat) : List (Bool × Status) :=
  [ (kindStochastic kind && bits (keyOf s e) 127 64 != 0, .reserved),
    ((e.held keyIndex).isNone && badRun s [(keyAddr e.fd e.tile, 16)], .uncorrectable) ]

/-- The read of the rounding key when a step issues. -/
def readKey (s : State) (e : Env) : State :=
  if (e.held keyIndex).isSome then s
  else match readRun s none false false (keyAddr e.fd e.tile) 16 with
  | (s, some w) => badWordFault s (tileFault s 0x02 .uncorrectable e.tile e.ctx e.field) w
  | (s, none) => s

/-- The recipe of the destination's kind (02 R49; 04 R126). -/
def recipeOf (fd : Field) (kind : Nat) : Recipe := fd.recipes.getD kind {}

/-- One element converted: its position, index and group; the source; the scale and zero point used; what came of it. -/
structure Done where
  pos : Pos
  e   : Nat
  g   : Nat
  x   : F32
  z   : Nat
  c   : Conv
  deriving DecidableEq, Repr

/-! ### Zero points and scales read (04 R120) -/

/-- E_RANGE for a zero point above the format's largest code. -/
def zeroConds (s : State) (loft : Option Nat) (o : Operand) (ps : List Pos) : List (Bool × Status) :=
  [(o.sg.asym && (o.d.fmt == .int4 || o.d.fmt == .int2) &&
    ((ps.map fun p => o.sg.groupIndex o.d p).eraseDups.any fun g => o.d.fmt.zeroMax < (seeByte s loft (o.sg.zero + g)).toNat), .range)]

/-! ### The tensor entry (06 R167, R173) -/

/-- A tensor entry's fields (06 R167). -/
structure TensorEntry where
  elements  : Nat
  sqerr     : Nat
  sat       : Nat
  nonfinite : Nat
  retry     : Nat
  exhausted : Nat
  amax      : Nat
  lastStep  : Nat
  histPos   : Nat
  reserved  : Bool
  deriving DecidableEq, Repr

def TensorEntry.parse (bs : List Byte) : TensorEntry :=
  let x := leNat bs
  ⟨bits x 63 0, bits x 127 64, bits x 159 128, bits x 191 160, bits x 223 192, bits x 255 224, bits x 271 256,
    bits x 319 288, bits x 329 320, bits x 287 272 != 0 || bits x 511 330 != 0⟩

def TensorEntry.bytes (t : TensorEntry) : List Byte :=
  leBytes 64 (pack [(0, t.elements), (64, t.sqerr), (128, t.sat), (160, t.nonfinite), (192, t.retry), (224, t.exhausted),
    (256, t.amax), (288, t.lastStep), (320, t.histPos)])

/-- The larger of two nonnegative BF16 codes. -/
def bf16Max (a b : Nat) : Nat := max a b

/-- A push of AMAX_CUR when STEP has changed (06 R173): the entry, and the ring entry written. -/
def TensorEntry.push (t : TensorEntry) (step history histBase : Nat) : TensorEntry × Option (Nat × Nat) :=
  if t.lastStep = step then (t, none)
  else
    let p := t.histPos % history
    ({ t with histPos := (p + 1) % history, amax := 0, lastStep := step },
      if histBase = 0 then none else some (histBase + 2 * p, t.amax))

/-- Who owns memory that a statistics update writes: the field whose bank or region holds it. -/
def ownerAt (s : State) (a : Nat) : By :=
  let hit := (upTo 16 fun f => ((fieldOf s f).map fun fd => match place s a with
    | .pad t off => fd.onTile t && bit fd.banks.toNat (off / 0x20000)
    | _ => decide (fd.base ≤ a ∧ a < fd.base + fd.size)).getD false)
  match hit with
  | f :: _ => .step (homeOf s a) f
  | [] => .outside

/-- A read that a home makes of statistics, for a step or for none: an uncorrectable word is recorded, and the read fails (09
R239). -/
def homeRead (s : State) (who : Option Env) (a n : Nat) : State × Bool :=
  match readRun s none false false a n with
  | (s, some w) =>
    (badWordFault s (match who with
      | some e => tileFault s 0x02 .uncorrectable e.tile e.ctx e.field
      | none => mkFault s 0x02 .uncorrectable (homeOf s a)) w, false)
  | (s, none) => (s, true)

/-- A write that a home makes of statistics: bytes lost by a partial write of an uncorrectable word are recorded, and the write
fails (09 R241). -/
def homeWrite (s : State) (who : Option Env) (by_ : By) (a : Nat) (bs : List Byte) : State × Bool :=
  let w := writeRun s by_ a bs
  let u := wordUnit w.1 (a / 16)
  (if w.2 then logFault w.1 { (match who with
      | some e => tileFault w.1 0x03 .uncorrectable e.tile e.ctx e.field
      | none => mkFault w.1 0x03 .uncorrectable (homeOf w.1 a)) with
        addr := a, unitClass := u.1, unitIndex := u.2.1, temp := wordTemp w.1 u }
    else w.1, !w.2)

/-- The write of a push to the history ring, if there is one (06 R173). -/
def ringWrite (s : State) (who : Option Env) (by_ : By) (ring : Option (Nat × Nat)) : State × Bool :=
  match ring with
  | some (a, v) => homeWrite s who by_ a (leBytes 2 v)
  | none => (s, true)

/-- The home of a tensor entry pushes (06 R173): E_RESERVED with no change when a reserved field is nonzero (06 R167). -/
def pushEntry (s : State) (e : Env) (by_ : By) (base step history histBase : Nat) : State × Status :=
  let (s, ok) := homeRead s (some e) base 64
  let t := TensorEntry.parse (seeBytes s none base 64)
  if !ok then (s, .uncorrectable)
  else if t.reserved then (s, .reserved)
  else
    let (t', ring) := t.push step history histBase
    let (s, ok) := ringWrite s (some e) by_ ring
    ((if t' = t then s else (writeRun s by_ base t'.bytes).1), if ok then .ok else .uncorrectable)

/-- One update of a tensor entry (06 R167, R173). -/
def updateEntry (s : State) (who : Option Env) (by_ : By) (u : StatUpdate) : State × Status :=
  let (s, ok) := homeRead s who u.base 64
  let t := TensorEntry.parse (seeBytes s none u.base 64)
  if !ok then (s, .uncorrectable)
  else if t.reserved then (s, .reserved)
  else
    let (t, ring) := t.push u.step.toNat (max 1 u.history) u.histBase
    let (s, ok) := ringWrite s who by_ ring
    let t := { t with
      elements := satAdd 64 t.elements u.elements, sqerr := satAdd 64 t.sqerr u.sqerr, sat := satAdd 32 t.sat u.sat
      nonfinite := satAdd 32 t.nonfinite u.nonfinite, retry := satAdd 32 t.retry u.retry
      exhausted := satAdd 32 t.exhausted u.exhausted, amax := bf16Max t.amax u.amax.toNat }
    ((writeRun s by_ u.base t.bytes).1, if ok then .ok else .uncorrectable)

/-- STATISTICS_UPDATE (06 R167, R173). An update at an address that is no entry in memory does not occur. -/
def execStatisticsUpdate (u : StatUpdate) (s : State) : Host.Outcome State Fault Refusal :=
  .next (if u.base % 64 = 0 ∧ runAllowed s .tile true u.base 64 ∧ u.base < windowBase then
      (updateEntry s none (ownerAt s u.base) u).1
    else s)

/-! ### Contributions (06 R168) -/

/-- The conversion error of an element, none for a non-finite one: d, f. -/
def convError (f : Fmt) (r : Done) : Option (F32 × F32) :=
  if r.c.event || !f32Finite r.c.y then none
  else
    let v := f.value r.c.code r.z
    some (fsub v r.c.y, v)

/-- floor(min(d², 2³²) × 2¹⁶) (06 R167). -/
def sqerrOf (d : F32) : Nat :=
  match dec (fmul d d) with
  | .fin _ m e =>
    let v := if e + 16 ≥ 0 then m <<< (e + 16).toNat else m >>> (-(e + 16)).toNat
    min v (2 ^ 48)
  | _ => 2 ^ 48

/-- The largest finite source magnitude of some conversions, rounded up to BF16 (06 R167, R173). -/
def amaxOf (rs : List Done) : BitVec 16 :=
  rs.foldl (fun a r => if f32Finite r.x then
    let b := bf16Up (fabs r.x)
    if a.toNat < b.toNat then b else a else a) 0

/-- The update that a step's final conversions send (06 R169, R173). -/
def statUpdateOf (t : Dest) (r : StatRec) (history : Nat) (rs : List Done) (retry exhausted : Nat) : StatUpdate :=
  { base := r.tensorBase, step := keyStep t.key, history := history, histBase := r.histBase
    amax := amaxOf rs, elements := rs.length
    sqerr := rs.foldl (fun a x => a + ((convError t.fmt x).map fun p => sqerrOf p.1).getD 0) 0
    sat := (rs.filter fun x => x.c.sat).length, nonfinite := (rs.filter fun x => x.c.event).length
    retry := retry, exhausted := exhausted }

/-- A group's sums E2 and EQ, formed in increasing element index (06 R168). -/
def groupSums (f : Fmt) (rs : List Done) : F32 × F32 :=
  rs.foldl (fun a r => match convError f r with
    | some (d, v) => (fadd a.1 (fmul d d), fadd a.2 (fmul d v))
    | none => a) (0, 0)

/-- The elements of a list in increasing element index, each put in before the first larger. -/
def insertDone (r : Done) : List Done → List Done
  | [] => [r]
  | x :: xs => if r.e < x.e then r :: x :: xs else x :: insertDone r xs

/-- A step's contribution added to its groups' entries (06 R168). -/
def addGroups (s : State) (e : Env) (by_ : By) (t : Dest) (r : StatRec) (rs : List Done) : State × Status :=
  if r.groupBase = 0 then (s, .ok)
  else
    (rs.map (·.g)).eraseDups.foldl (fun p g =>
      let (e2, eq) := groupSums t.fmt ((rs.filter (·.g == g)).foldr insertDone [])
      let a := r.groupBase + 8 * g
      let (s, ok) := homeRead p.1 (some e) a 8
      let old := leNat (seeBytes s none a 8)
      let n2 := fadd (BitVec.ofNat 32 (old % 2 ^ 32)) e2
      let nq := fadd (BitVec.ofNat 32 (old / 2 ^ 32)) eq
      if ok then ((writeRun s by_ a (leBytes 8 (n2.toNat + 2 ^ 32 * nq.toNat))).1, p.2) else (s, .uncorrectable)) (s, .ok)

/-- The statistics of a step's final conversions (06 R169); a destination without a record takes none. -/
def putStatistics (s : State) (e : Env) (t : Dest) (rs : List Done) (retry exhausted : Nat) : State × Status :=
  match t.o.rec_ with
  | none => (s, .ok)
  | some r =>
    let by_ := By.step e.quarter e.field
    let (s, gst) := addGroups s e by_ t r rs
    if r.tensorBase = 0 ∨ rs = [] then (s, gst)
    else
      let (s, st) := updateEntry s (some e) by_ (statUpdateOf t r (recipeOf e.fd t.o.d.kind).history rs retry exhausted)
      (s, if gst = .ok then st else gst)

/-- The runs of memory that a destination's statistics touch (06 R166); the spill's where the step can recompute (06 R177). -/
def statRuns (spill : Bool) (t : Operand) (history : Nat) (gs : List Nat) (es : List Nat) : List (Nat × Nat) :=
  match t.rec_ with
  | none => []
  | some r =>
    (if r.tensorBase = 0 then [] else [(r.tensorBase, 64)])
      ++ (if r.histBase = 0 ∨ r.tensorBase = 0 then [] else [(r.histBase, 2 * history)])
      ++ (if r.groupBase = 0 then [] else byteRuns (gs.map fun g => (8 * (r.groupBase + 8 * g), 64)))
      ++ (if !spill || r.spillBase = 0 then [] else byteRuns (es.map fun i => (8 * (r.spillBase + 2 * i), 16)))

/-! ### Scales (06 R171, R172) -/

/-- The BF16 scale of MODE 1: any pending push first, then the history's maximum (06 R172, R173). -/
def delayedScale (s : State) (e : Env) (t : Dest) (r : StatRec) : State × BitVec 16 × Status :=
  let rec_ := recipeOf e.fd t.o.d.kind
  let h := max 1 rec_.history
  let (s, st) := pushEntry s e (.step e.quarter e.field) r.tensorBase (keyStep t.key).toNat h r.histBase
  let (s, ok) := homeRead s (some e) r.histBase (2 * h)
  let st := if ok then st else .uncorrectable
  let ring := (List.range h).map fun i => leNat (seeBytes s none (r.histBase + 2 * i) 2)
  (s, computedScale t.fmt rec_ (f32OfBf16 (BitVec.ofNat 16 (ring.foldl bf16Max 0))), st)

/-- The BF16 scale of MODE 2 from a group's finite source magnitudes; 0x7FC0 when it holds a non-finite value (04 R122; 06
R172). -/
def currentScale (e : Env) (t : Dest) (xs : List F32) : BitVec 16 :=
  if xs.any fun x => !f32Finite x then 0x7FC0
  else computedScale t.fmt (recipeOf e.fd t.o.d.kind) (xs.foldl (fun a x => fmax a (fabs x)) 0)

/-- One conversion under a BF16 scale: in a group poisoned under MODE 2, the zero code (04 R122). Only an element whose own source
is non-finite counts as an event there: DESIGN CHOICE (log 25). -/
def convertDone (t : Dest) (poisoned : Bool) (sc : F32) (z : Nat) (p : Pos) (x : F32) : Done :=
  let i := t.o.d.index p
  let g := t.o.sg.groupIndex t.o.d p
  if poisoned then ⟨p, i, g, x, z, { code := t.fmt.zeroCode z, sat := false, event := !f32Finite x, y := f32NaN }⟩
  else ⟨p, i, g, x, z, t.fmt.convert (t.mode i) x sc z⟩

/-- The scales of a destination's groups that a step computes: group and BF16 code, and whether the group is poisoned. With
MODE 0 the list is empty and the scales are read as stored. -/
def stepScales (e : Env) (t : Dest) (delayed : Option (BitVec 16)) (vals : List (Pos × F32)) : List (Nat × BitVec 16 × Bool) :=
  match delayed with
  | some b => [(0, b, false)]
  | none =>
    if (t.o.rec_.map StatRec.mode).getD 0 = 2 then
      (vals.map fun v => t.o.sg.groupIndex t.o.d v.1).eraseDups.map fun g =>
        let xs := (vals.filter fun v => t.o.sg.groupIndex t.o.d v.1 == g).map (·.2)
        (g, currentScale e t xs, xs.any fun x => !f32Finite x)
    else []

/-- The scale, zero point and poison of an element under a list of computed scales, else as stored. -/
def scaleFor (s : State) (loft : Option Nat) (t : Dest) (scales : List (Nat × BitVec 16 × Bool)) (p : Pos) : F32 × Nat × Bool :=
  match scales.find? (·.1 == t.o.sg.groupIndex t.o.d p) with
  | some (_, b, bad) =>
    (f32OfBf16 b, if (t.o.rec_.map StatRec.mode).getD 0 = 0 then (elemScale s loft t.o p).2 else t.fmt.recipeZero, bad)
  | none => let (sc, z) := elemScale s loft t.o p; (sc, z, false)

/-- The writes of computed scales and their zero points (06 R171). -/
def scaleWrites (t : Dest) (scales : List (Nat × BitVec 16)) (zeros_ : Bool) : List Acc :=
  scales.map (fun g => writeAcc (t.o.sg.base + 2 * g.1) (leBytes 2 g.2.toNat))
    ++ (if zeros_ && t.o.sg.asym then scales.map fun g => writeAcc (t.o.sg.zero + g.1) [BitVec.ofNat 8 t.fmt.recipeZero] else [])

/-- The asks of MODE 1 that a step makes at issue (06 R173): each destination's scale, and the status. -/
def askScales (s : State) (e : Env) (ts : List Dest) : State × List (Option (BitVec 16)) × Status :=
  ts.foldl (fun p t =>
    match t.o.rec_ with
    | some r =>
      if r.mode = 1 then
        let (s, b, st) := delayedScale p.1 e t r
        (s, p.2.1 ++ [some b], if p.2.2 = .ok ∨ st = .uncorrectable then st else p.2.2)
      else (p.1, p.2.1 ++ [none], p.2.2)
    | none => (p.1, p.2.1 ++ [none], p.2.2)) (s, [], .ok)

/-- The reads of a destination's stored scales, under MODE 0 (06 R171). -/
def storedReads (t : Operand) (ps : List Pos) : List Acc :=
  if (t.rec_.map StatRec.mode).getD 0 = 0 then scaleReads t ps else []

/-- What a destination touches: elements, statistics, and scales written or read. -/
def destTouches (e : Env) (spill : Bool) (t : Operand) (ps : List Pos) : List (Bool × List (Nat × Nat)) :=
  let gs := (ps.map fun p => t.sg.groupIndex t.d p).eraseDups
  [ (true, elemRuns t.d ps), (true, statRuns spill t (recipeOf e.fd t.d.kind).history gs (ps.map t.d.index)),
    ((t.rec_.map StatRec.mode).getD 0 != 0, scaleRuns t ps) ]

/-- The conditions on a destination's addresses: elements, statistics, and scales written or read. -/
def destConds (s : State) (e : Env) (spill : Bool) (t : Operand) (ps : List Pos) : List (Bool × Status) :=
  let gs := (ps.map fun p => t.sg.groupIndex t.d p).eraseDups
  runConds s e true (elemRuns t.d ps)
    ++ runConds s e true (statRuns spill t (recipeOf e.fd t.d.kind).history gs (ps.map t.d.index))
    ++ [((statRuns spill t (recipeOf e.fd t.d.kind).history gs (ps.map t.d.index)).any fun r => windowBase ≤ r.1, .range)]
    ++ runConds s e ((t.rec_.map StatRec.mode).getD 0 != 0) (scaleRuns t ps)
    ++ zeroConds s (some e.quarter) t (if (t.rec_.map StatRec.mode).getD 0 = 0 then ps else [])

end Sys2Proof.Machine
end

