-- ==== Sys2Proof/Machine/Array.lean ====
section
/-! DEFINITION. The matrix array: the ARRAY steps (05 R132 to R157), the narrow forms and exact sums (06 R161 to R165), the
output path with its block recompute (05 R145; 06 R174 to R178), and chaff (05 R159, R160; 13 R363). -/
namespace Sys2Proof.Machine

/-! ### The step (05 R136, R137) -/

/-- The ARRAY operations; MATMUL_STALL computes as MATMUL (05 R137). -/
inductive ArrayOp where
  | matmul | split3 | cplx3 | cplx4 | wide8
  deriving DecidableEq, Repr

/-- How an operand element enters a pass: whole, or the low or high part of an INT8 code (05 R153). -/
inductive Part where
  | whole | low | high
  deriving DecidableEq, Repr

/-- A pass over a K chunk: which A and B operand, the parts they enter as, what it adds to the real and the imaginary
accumulator (1 add, −1 subtract, 0 nothing), and its power-of-two weight. -/
structure Pass where
  a    : Nat
  b    : Nat
  pa   : Part := .whole
  pb   : Part := .whole
  re   : Int := 1
  im   : Int := 0
  wexp : Int := 0
  deriving DecidableEq, Repr

/-- The passes of an operation per K chunk, in order (05 R151 to R153); `b4` says that WIDE8's B is INT4. -/
def ArrayOp.passes (b4 : Bool) : ArrayOp → List Pass
  | .matmul => [{ a := 0, b := 0 }]
  | .split3 => [{ a := 1, b := 0 }, { a := 0, b := 1 }, { a := 0, b := 0 }]
  | .cplx4 => [{ a := 0, b := 0 }, { a := 1, b := 1, re := -1 }, { a := 0, b := 1, re := 0, im := 1 }, { a := 1, b := 0, re := 0, im := 1 }]
  | .cplx3 => [{ a := 0, b := 0, im := -1 }, { a := 1, b := 1, re := -1, im := -1 }, { a := 2, b := 2, re := 0, im := 1 }]
  | .wide8 =>
    if b4 then [{ a := 0, b := 0, pa := .low }, { a := 0, b := 0, pa := .high, wexp := 4 }]
    else [{ a := 0, b := 0, pa := .low, pb := .low }, { a := 0, b := 0, pa := .low, pb := .high, wexp := 4 },
      { a := 0, b := 0, pa := .high, pb := .low, wexp := 4 }, { a := 0, b := 0, pa := .high, pb := .high, wexp := 8 }]

/-- How many slots A and B use, and how many D uses (05 R137). -/
def ArrayOp.inputs : ArrayOp → Nat
  | .matmul => 1 | .split3 => 2 | .cplx3 => 3 | .cplx4 => 2 | .wide8 => 1
def ArrayOp.outputs : ArrayOp → Nat
  | .cplx3 => 2 | .cplx4 => 2 | _ => 1

/-- A step's shape (05 R136). -/
structure Shape where
  cin : Bool
  m   : Nat
  n   : Nat
  k   : Nat
  deriving DecidableEq, Repr

def arrayShape (w : BitVec 128) : Shape :=
  ⟨bit (stepHi w) 13, bits (stepHi w) 9 0, bits (stepLo w) 11 6, bits (stepLo w) 31 12⟩

/-- The K indices of a pass (05 R133), by the format of B. -/
def Fmt.kPass : Fmt → Nat
  | .bf16 | .fp16 | .hi16 => 32
  | .e4m3 | .e5m2 | .int8 => 64
  | .fp4 | .int4 => 128
  | _ => 256

/-- Whether A and B pair (05 R134, R151, R153). -/
def pairOk (op : ArrayOp) (a b : Fmt) : Bool :=
  let w16 := fun (f : Fmt) => f == .bf16 || f == .fp16 || f == .hi16
  let w8 := fun (f : Fmt) => f == .e4m3 || f == .e5m2
  let w4 := fun (f : Fmt) => f == .fp4 || f == .int4
  match op with
  | .wide8 => a == .int8 && (b == .int8 || b == .int4)
  | .split3 => w16 a && w16 b
  | _ => (w16 a && w16 b) || (w8 a && w8 b) || (a == .int8 && b == .int8) || (w4 a && w4 b)
      || (w4 a && (b == .int2 || b == .ternary))

/-- Formats of D (05 R134). -/
def arrayDest (f : Fmt) : Bool :=
  f == .bf16 || f == .fp16 || f == .e4m3 || f == .e5m2 || f == .int8 || f == .fp4 || f == .int4

def arrayOperand (f : Fmt) : Bool :=
  !(f == .uint8 || f == .int16 || f == .int32 || f == .lo16 || f == .none)

/-- A step's operands as read at issue. -/
structure Mats where
  as_ : List Operand
  bs  : List Operand
  ds  : List Operand
  key : Nat
  deriving DecidableEq, Repr

def Mats.a (x : Mats) (i : Nat) : Operand := x.as_.getD i ⟨Desc.parse [], .absent, none, .zero⟩
def Mats.b (x : Mats) (i : Nat) : Operand := x.bs.getD i ⟨Desc.parse [], .absent, none, .zero⟩

def arrayMats (s : State) (e : Env) (op : ArrayOp) : Mats :=
  let w := e.word
  { as_ := (List.range op.inputs).map fun i => operand s e (stepA w + i) e.originA
    bs := (List.range op.inputs).map fun i => operand s e (stepB w + i) e.originB
    ds := (List.range op.outputs).map fun i => operand s e (stepD w + i) e.originD
    key := keyOf s e }

/-! ### Addresses (05 R138) -/

def posA (o : Operand) (m k : Nat) : Pos := o.origin.add ⟨k, m, 0, 0⟩
def posB (o : Operand) (k n : Nat) : Pos := o.origin.add ⟨n, k, 0, 0⟩
def posD (o : Operand) (m n : Nat) : Pos := o.origin.add ⟨n, m, 0, 0⟩

/-- Whether the ranges of a block of n0 × n1 from the operand's origin lie within its extents; an empty range runs past none. -/
def blockWithin (o : Operand) (n0 n1 : Nat) : Bool :=
  (n0 == 0 || o.origin.i0 + n0 ≤ o.d.ext.i0) && (n1 == 0 || o.origin.i1 + n1 ≤ o.d.ext.i1)
    && ((n0 == 0 && n1 == 0) || (o.origin.i2 < o.d.ext.i2 && o.origin.i3 < o.d.ext.i3))

/-- Whether runs lie in scratchpad banks of a tile. -/
def runsInPad (tile : Nat) (runs : List (Nat × Nat)) : Bool :=
  runs.all fun r => r.2 == 0 || (inPad tile r.1 && inPad tile (r.1 + r.2 - 1))

/-- Whether every group of D that a block of m × n from its origin holds lies within it, along AXIS (06 R174, R175). -/
def groupsWithin (o : Operand) (n m : Nat) : Bool :=
  let g := groupLen o.sg.group
  let fit := fun lo len ext => lo % g == 0 && ((lo + len) % g == 0 || lo + len == ext)
  2 ≤ o.sg.group &&
  match o.sg.axis with
  | 0 => fit o.origin.i0 n o.d.ext.i0
  | 1 => fit o.origin.i1 m o.d.ext.i1
  | 2 => fit o.origin.i2 1 o.d.ext.i2
  | _ => fit o.origin.i3 1 o.d.ext.i3

/-! ### The checks at issue (05 R140) -/

/-- Conditions on the step word and its operands' forms. -/
def arrayForm (op : ArrayOp) (w : BitVec 128) : List (Bool × Status) :=
  let sh := arrayShape w
  [ (bits (stepHi w) 12 10 != 0 || bits (stepLo w) 5 0 != 0 || 2 < stepUnit w, .reserved),
    (512 < sh.m || 32 < sh.n || (stepUnit w != 0 && 16 < sh.n), .range),
    (2 ≤ op.outputs && 256 < sh.m, .range) ]

/-- Conditions on one input operand. -/
def arrayInput (s : State) (e : Env) (slot : Nat) (origin : Pos) (isB : Bool) (n0 n1 : Nat) : List (Bool × Status) :=
  let c := operandConds s e slot origin arrayOperand false
  if c.any (·.1) then c
  else
    let o := operand s e slot origin
    let ps := blockPos origin n0 n1
    let runs := elemRuns o.d ps
    let shape : List (Bool × Status) :=
      [ (if isB then o.d.layout != 1 else decide (1 < o.d.layout), .range),
        (2 ≤ o.sg.group && o.sg.axis != (if isB then 1 else 0), .range),
        (!blockWithin o n0 n1, .range) ]
    shape ++ (if blockWithin o n0 n1 then
        [(!runsInPad e.tile runs, .range)] ++ runConds s e false runs ++ runConds s e false (scaleRuns o ps)
          ++ zeroConds s (some e.quarter) o ps
      else [])

/-- Conditions on one destination; a partner lies on the issuing tile (05 R139). -/
def arrayOutput (s : State) (e : Env) (sh : Shape) (partner : Bool) (slot : Nat) : List (Bool × Status) :=
  let c := operandConds s e slot e.originD arrayDest true
  if c.any (·.1) then c
  else
    let o := operand s e slot e.originD
    let ps := blockPos e.originD sh.n sh.m
    let runs := elemRuns o.d ps
    let shape : List (Bool × Status) :=
     [(1 < o.d.layout, .range), (sh.cin && !(o.d.fmt == .bf16 || o.d.fmt == .fp16), .range),
      (!blockWithin o sh.n sh.m, .range),
      ((o.rec_.map StatRec.mode).getD 0 == 2
        && !(o.sg.axis == 0 && (sh.n == 0 || sh.m == 0 || groupsWithin o sh.n sh.m)), .range)]
    shape ++ (if blockWithin o sh.n sh.m then
        [(runs.any fun r => windowBase ≤ r.1, .range), ((sh.cin || partner) && !runsInPad e.tile runs, .range)]
          ++ destConds s e true o ps
      else [])
    ++ keyConds s e o.d.kind

/-- What an input touches, when its form passes. -/
def inputTouches (s : State) (e : Env) (slot : Nat) (origin : Pos) (n0 n1 : Nat) : List (Bool × List (Nat × Nat)) :=
  if (operandConds s e slot origin arrayOperand false).any (·.1) then []
  else
    let o := operand s e slot origin
    let ps := blockPos origin n0 n1
    if blockWithin o n0 n1 then [(false, elemRuns o.d ps), (false, scaleRuns o ps)] else []

/-- What a destination touches, when its form passes. -/
def outputTouches (s : State) (e : Env) (sh : Shape) (slot : Nat) : List (Bool × List (Nat × Nat)) :=
  if (operandConds s e slot e.originD arrayDest true).any (·.1) then []
  else
    let o := operand s e slot e.originD
    if blockWithin o sh.n sh.m then destTouches e true o (blockPos e.originD sh.n sh.m) else []

/-- Conditions that join operands: the pairing, partners' shapes, the overlap of D (05 R134, R139, R151). Partners of B with
different K_pass are refused: DESIGN CHOICE (log 25). -/
def arrayJoint (op : ArrayOp) (sh : Shape) (x : Mats) : List (Bool × Status) :=
  let fa := (x.a 0).d
  let fb := (x.b 0).d
  let partner := fun (d0 d : Desc) => d.rank == d0.rank && d.ext == d0.ext && d.layout == d0.layout
  let low := fun (d : Desc) => d.fmt == .bf16 || d.fmt == .fp16
  let inRuns := (x.as_.flatMap fun o => elemRuns o.d (blockPos o.origin sh.k sh.m))
    ++ x.bs.flatMap fun o => elemRuns o.d (blockPos o.origin sh.n sh.k)
  let outRuns := x.ds.map fun o => elemRuns o.d (blockPos o.origin sh.n sh.m)
  [ ((op.passes (fb.fmt == .int4)).any fun p => !pairOk op (x.a p.a).d.fmt (x.b p.b).d.fmt, .range),
    (x.bs.any fun o => o.d.fmt.kPass != fb.fmt.kPass, .range),
    (op == .split3 && !(low (x.a 1).d && low (x.b 1).d && partner fa (x.a 1).d && partner fb (x.b 1).d), .range),
    (outRuns.any fun r => runsOverlap r inRuns, .range),
    (runsOverlap (outRuns.getD 0 []) (outRuns.getD 1 []), .range) ]

def arrayConds (s : State) (e : Env) (op : ArrayOp) : List (Bool × Status) :=
  let w := e.word
  let sh := arrayShape w
  let x := arrayMats s e op
  let ins := (List.range op.inputs).flatMap fun i =>
    arrayInput s e (stepA w + i) e.originA false sh.k sh.m ++ arrayInput s e (stepB w + i) e.originB true sh.n sh.k
  let outs := (List.range op.outputs).flatMap fun i => arrayOutput s e sh (i != 0) (stepD w + i)
  let form := arrayForm op w
  if (form ++ ins ++ outs).any (·.1) then form ++ ins ++ outs
  else form ++ ins ++ outs ++ arrayJoint op sh x

/-! ### The arithmetic (05 R142, R143; 06 R161 to R165) -/

/-- The fixed-point form of an FP4 code (04 R115). -/
def fp4Form (code : Nat) : Int :=
  let m : Int := ([0, 1, 2, 3, 4, 6, 8, 12] : List Int).getD (code % 8) 0
  if code.testBit 3 then -m else m

/-- The integer form of an element (05 R142, R153; 06 R161). -/
def intForm (f : Fmt) (part : Part) (code z : Nat) : Int :=
  match f, part with
  | .fp4, _ => fp4Form code
  | .int8, .low => toSigned 8 code % 16
  | .int8, .high => toSigned 8 code / 16
  | f, _ => f.intOf code - z

/-- Whether a pass sums in FP32 rather than in integers. -/
def floatPass (f : Fmt) : Bool := f == .bf16 || f == .fp16 || f == .hi16 || f == .e4m3 || f == .e5m2

/-- The segments of a pass (05 R142): maximal runs of its K indices k0 to k1 − 1 with one scale group of A, of B, and, for
WIDE8, one 64-element half. Starts and lengths. -/
def segments (oa ob : Operand) (wide : Bool) (k0 k1 : Nat) : List (Nat × Nat) :=
  let grp := fun (o : Operand) (c k : Nat) => if o.sg.group < 2 then 0 else (c + k) / groupLen o.sg.group
  let key := fun k => (grp oa oa.origin.i0 k, grp ob ob.origin.i1 k, if wide then k / 64 else 0)
  ((rangeFrom k0 (k1 - k0)).foldr (fun k (acc : List (Nat × Nat)) =>
    match acc with
    | (b, n) :: rest => if key b = key k then (k, n + 1) :: rest else (k, 1) :: (b, n) :: rest
    | [] => [(k, 1)]) [])

/-- The value of an operand's element without its scale, in FP32, and its integer form. -/
def rawF32 (s : State) (q : Nat) (o : Operand) (p : Pos) : F32 := o.d.fmt.value (elemCode s (some q) o.d p) 0
def rawInt (s : State) (q : Nat) (o : Operand) (part : Part) (p : Pos) : Int :=
  intForm o.d.fmt part (elemCode s (some q) o.d p) (elemScale s (some q) o p).2

/-- The sum of one segment for row m and column n (05 R142). `pad` says that zero rows of the last pass follow it. -/
def segmentSum (s : State) (q : Nat) (oa ob : Operand) (ps : Pass) (pad : Bool) (m n k0 len : Nat) : F32 :=
  let ks := rangeFrom k0 len
  if floatPass ob.d.fmt then
    let prod := fun k => fmul (rawF32 s q oa (posA oa m k)) (rawF32 s q ob (posB ob k n))
    let sum :=
      if ob.d.fmt.kPass = 32 then
        ks.foldl (fun acc k => ffma (rawF32 s q oa (posA oa m k)) (rawF32 s q ob (posB ob k n)) acc) 0
      else
        -- two weights to a cell: the pair of K indices 2i, 2i + 1 of the step
        (ks.map (· / 2)).eraseDups.foldl (fun acc i =>
          match ks.filter (· / 2 == i) with
          | [a, b] => fadd acc (fadd (prod a) (prod b))
          | [a] => fadd acc (prod a)
          | _ => acc) 0
    if pad then fadd sum 0 else sum
  else
    f32OfInt (ks.foldl (fun acc k => acc + rawInt s q oa ps.pa (posA oa m k) * rawInt s q ob ps.pb (posB ob k n)) 0)

/-- The scale product of a segment (05 R143; 06 R164): RNE(RNE(s_a × s_w) × 2^−k), k FP4 operands. -/
def segmentScale (s : State) (q : Nat) (oa ob : Operand) (m n k : Nat) : F32 :=
  let sa := (elemScale s (some q) oa (posA oa m k)).1
  let sb := (elemScale s (some q) ob (posB ob k n)).1
  let fp4s := b2n (oa.d.fmt == .fp4) + b2n (ob.d.fmt == .fp4)
  fmul (fmul sa sb) (f32Pow2 (-(fp4s : Int)))

/-- An addition to an accumulator, or the addition of the negated sum (05 R143, R152). -/
def accAdd (sign : Int) (acc term : F32) : F32 :=
  if sign = 0 then acc else if 0 < sign then fadd acc term else fadd acc (fneg term)

/-- One pass for row m and column n: real and imaginary accumulator (05 R143, R152, R153). -/
def passAcc (s : State) (q : Nat) (op : ArrayOp) (x : Mats) (k kEnd k0 m n : Nat) (acc : F32 × F32) (ps : Pass) : F32 × F32 :=
  let oa := x.a ps.a
  let ob := x.b ps.b
  let segs := segments oa ob (op == .wide8) k0 kEnd
  let padded := kEnd = k ∧ (k - k0) % ob.d.fmt.kPass ≠ 0
  segs.foldl (fun acc sg =>
    let last := sg.1 + sg.2 == kEnd
    let sigma := segmentSum s q oa ob ps (padded ∧ last) m n sg.1 sg.2
    let sigma := if ps.wexp = 0 then sigma else fmul sigma (f32Pow2 ps.wexp)
    let term := fmul sigma (segmentScale s q oa ob m n sg.1)
    (accAdd ps.re acc.1 term, accAdd ps.im acc.2 term)) acc

/-- The K chunk of a step: K_pass of B's format, 128 for WIDE8 (05 R133, R153). -/
def chunkLen (op : ArrayOp) (x : Mats) : Nat := if op = .wide8 then 128 else (x.b 0).d.fmt.kPass

/-- The accumulators of row m and column n at the end of the step (05 R143, R144). -/
def arrayAcc (s : State) (q : Nat) (op : ArrayOp) (x : Mats) (sh : Shape) (m n : Nat) : F32 × F32 :=
  let init := fun i => if sh.cin then
      let o := x.ds.getD i ⟨Desc.parse [], .absent, none, .zero⟩
      elemValue s (some q) o (posD o m n)
    else 0
  let c := chunkLen op x
  let passes := op.passes ((x.b 0).d.fmt == .int4)
  (List.range (ceilDiv sh.k c)).foldl (fun acc j =>
    passes.foldl (passAcc s q op x sh.k (min sh.k (c * (j + 1))) (c * j) m n) acc)
    (init 0, if op.outputs = 2 then init 1 else 0)

/-! ### The output path (05 R145; 06 R174 to R178) -/

/-- An attempt at a block: its conversions, and the groups that overflowed. -/
structure Attempt where
  done : List Done
  above : List Nat
  deriving DecidableEq, Repr

/-- Whether a conversion overflows (06 R175; 05 R145). -/
def overflowed (t : Dest) (r : Done) : Bool := t.fmt.overflows && f32Finite r.x && r.c.sat

def attempt (s : State) (q : Nat) (t : Dest) (scales : List (Nat × BitVec 16 × Bool)) (vals : List (Pos × F32)) : Attempt :=
  let rs := vals.map fun v =>
    let (sc, z, bad) := scaleFor s (some q) t scales v.1
    convertDone t bad sc z v.1 v.2
  ⟨rs, ((rs.filter (overflowed t)).map (·.g)).eraseDups⟩

/-- A BF16 scale doubled exactly; none where it would exceed 0x7F7F (06 R176). -/
def doubleScale (b : BitVec 16) : Option (BitVec 16) :=
  match bf16.decode b.toNat with
  | .fin n m e =>
    let c := bf16.roundMag .nearest m 1 (e + 1)
    if 0x7F7F < c then none else some (BitVec.ofNat 16 (bf16.signed n c))
  | _ => some b

/-- The scales of the groups that overflowed, doubled: those known and those read as stored. -/
def doubleScales (s : State) (q : Nat) (t : Dest) (scales : List (Nat × BitVec 16 × Bool)) (above : List Nat) : List (Nat × BitVec 16 × Bool) :=
  above.foldl (fun l g =>
    let b := match l.find? (·.1 == g) with
      | some (_, b, _) => b
      | none => BitVec.ofNat 16 (leNat (seeBytes s (some q) (t.o.sg.base + 2 * g) 2))
    l.filter (·.1 != g) ++ [(g, (doubleScale b).getD b, false)]) scales

/-- What an output block comes to: the conversions of each attempt, the last one final; the scales it writes; recomputes; and
whether it is exhausted. -/
structure Block where
  attempts  : List (List Done)
  scales    : List (Nat × BitVec 16)
  retries   : Nat
  exhausted : Bool
  deriving DecidableEq, Repr

/-- The attempts of an owning block, n recomputes left (06 R176). -/
def blockAttempts (s : State) (q : Nat) (t : Dest) (vals : List (Pos × F32)) :
    Nat → List (Nat × BitVec 16 × Bool) → List Nat → Block
  | 0, scales, changed =>
    let a := attempt s q t scales vals
    ⟨[a.done], (scales.filter fun g => changed.contains g.1).map fun g => (g.1, g.2.1), 0, !a.above.isEmpty⟩
  | n + 1, scales, changed =>
    let a := attempt s q t scales vals
    if a.above.isEmpty then ⟨[a.done], (scales.filter fun g => changed.contains g.1).map fun g => (g.1, g.2.1), 0, false⟩
    else
      let b := blockAttempts s q t vals n (doubleScales s q t scales a.above) (changed ++ a.above)
      { b with attempts := a.done :: b.attempts, retries := b.retries + 1 }

/-- An output block (05 R145; 06 R175): rows of a destination, all columns. -/
def outputBlock (s : State) (e : Env) (t : Dest) (delayed : Option (BitVec 16)) (n : Nat) (rows : List Nat)
    (vals : List (Pos × F32)) : Block :=
  let scales := stepScales e t delayed vals
  let blk := { t.o with origin := t.o.origin.add ⟨0, rows.headD 0, 0, 0⟩ }
  if t.fmt.overflows && groupsWithin blk n rows.length then
    blockAttempts s e.quarter t vals 4 scales (scales.map (·.1))
  else ⟨[(attempt s e.quarter t scales vals).done], scales.map fun g => (g.1, g.2.1), 0, false⟩

/-- The spill of an exhausted block (06 R177). -/
def spillWrites (t : Dest) (rs : List Done) : List Acc :=
  match t.o.rec_ with
  | some r =>
    if r.spillBase = 0 then []
    else rs.map fun d => writeAcc (r.spillBase + 2 * d.e) (leBytes 2 (Fmt.bf16.convert (t.mode d.e) d.x f32One 0).code)
  | none => []

/-- The writes of a block: each attempt's rows, then its scales, then its spill. -/
def blockWrites (t : Dest) (b : Block) : List Acc :=
  (b.attempts.flatMap fun rs => writesOf t.o.d (rs.map fun d => (d.pos, d.c.code)))
    ++ scaleWrites t b.scales ((t.o.rec_.map StatRec.mode).getD 0 != 0)
    ++ (if b.exhausted then spillWrites t (b.attempts.getLastD []) else [])

/-- A step's destinations. -/
def Mats.dest (x : Mats) (i : Nat) : Dest := ⟨x.ds.getD i ⟨Desc.parse [], .absent, none, .zero⟩, x.key⟩

/-- The output blocks of one destination: 32 rows each, and what each comes to. -/
def outputBlocks (s : State) (e : Env) (t : Dest) (delayed : Option (BitVec 16)) (sh : Shape) (acc : Nat → Nat → F32) :
    List (List Nat × Block) :=
  (List.range (ceilDiv sh.m 32)).map fun j =>
    let rows := rangeFrom (32 * j) (min 32 (sh.m - 32 * j))
    (rows, outputBlock s e t delayed sh.n rows (rows.flatMap fun m => (List.range sh.n).map fun n => (posD t.o m n, acc m n)))

/-- The output of one destination: the state, whether a block is exhausted, and the status. -/
def outputDest (s : State) (e : Env) (t : Dest) (delayed : Option (BitVec 16)) (sh : Shape) (acc : Nat → Nat → F32) :
    State × Bool × Status :=
  let blocks := (outputBlocks s e t delayed sh acc).map (·.2)
  let (s, wst) := runAccs s e (blocks.flatMap (blockWrites t))
  let (s, sst) := putStatistics s e t (blocks.flatMap fun b => b.attempts.getLastD [])
    (blocks.foldl (fun a b => a + b.retries) 0) (blocks.filter (·.exhausted)).length
  (s, blocks.any (·.exhausted), Status.lowest [(wst != .ok, wst), (sst != .ok, sst)])

/-! ### The step -/

/-- The regions of a UNIT: region 0 is columns 0 to 15, region 1 columns 16 to 31. -/
def unitRegions (unit : Nat) : List Nat := match unit with
  | 0 => [0, 1]
  | 1 => [0]
  | _ => [1]

/-- The weights that a pass puts in its cells, array row by array row and column by column: zero beyond K and beyond N (05 R133,
R141, R153). -/
def passWeights (s : State) (q : Nat) (x : Mats) (sh : Shape) (ps : Pass) (k0 kEnd : Nat) : List (List Nat) :=
  let o := x.b ps.b
  let w := o.d.fmt.kPass / 32
  let code := fun k n =>
    let c := elemCode s (some q) o.d (posB o k n)
    match ps.pb with
    | .whole => c
    | .low => c % 16
    | .high => c / 16
  (List.range 32).map fun i => (List.range 32).map fun n =>
    (List.range w).foldl (fun v j =>
      let k := k0 + w * i + j
      if k < kEnd ∧ n < sh.n then v + code k n <<< (o.d.fmt.width * j) else v) 0

/-- The weights of a step's passes in order (05 R133, R151 to R153). -/
def stepWeights (s : State) (q : Nat) (op : ArrayOp) (x : Mats) (sh : Shape) : List (List (List Nat)) :=
  let c := if op = .wide8 then 128 else (x.b 0).d.fmt.kPass
  (List.range (ceilDiv sh.k c)).flatMap fun j =>
    (op.passes ((x.b 0).d.fmt == .int4)).map fun p => passWeights s q x sh p (c * j) (min sh.k (c * (j + 1)))

/-- A region's registers after a step's passes: its gap over, its columns' weights those of the last pass. The first pass after a
stall load leaves the shadows alone; a front leaves in them what it moved (05 R147, R149, R159). -/
def Region.passed (r : Region) (two : Bool) (cols : List (List (List Nat))) : Region :=
  { r with stall := false, two := two, ramp := 0, active := cols.getLastD r.active
           shadow := if r.stall && cols.length ≤ 1 then r.shadow else cols.getLastD r.shadow }

/-- The columns of a UNIT's step that a region holds: a half step's columns count from the half's first (05 R155). -/
def regionCols {α : Type} (unit r : Nat) (row : List α) : List α :=
  if unit = 0 then (row.drop (16 * r)).take 16 else row.take 16

/-- The regions after an ARRAY step's passes (05 R149, R158, R159), with the weights of each. -/
def useRegions (s : State) (tile unit : Nat) (two : Bool) (weights : List (List (List Nat))) : State :=
  { s with tiles := { s.tiles with
      regions := (unitRegions unit).foldl (fun m r =>
        SMap.set {} m (2 * tile + r) ((SMap.get {} m (2 * tile + r)).passed two (weights.map fun w => w.map (regionCols unit r))))
        s.tiles.regions } }

/-- A region's accumulator rows with rows put at a place; what is not listed is zero (log 24). -/
def putRows (old : List (List F32)) (at_ : Nat) (rows : List (List F32)) : List (List F32) :=
  old.take at_ ++ List.replicate (at_ - old.length) [] ++ rows ++ old.drop (at_ + rows.length)

/-- The accumulator entries after an ARRAY step (05 R132, R152): entry m holds row m, entry 256 + m its imaginary part. -/
def fillAccumulators (s : State) (tile unit : Nat) (op : ArrayOp) (sh : Shape) (acc : Nat → Nat → F32 × F32) : State :=
  let part := fun (r : Nat) (f : F32 × F32 → F32) =>
    (List.range sh.m).map fun m => regionCols unit r ((List.range sh.n).map fun n => f (acc m n))
  let filled := fun (r : Nat) (old : List (List F32)) =>
    let re := putRows old 0 (part r (·.1))
    if op.outputs = 2 then putRows re 256 (part r (·.2)) else re
  { s with tiles := { s.tiles with
      regions := (unitRegions unit).foldl (fun m r =>
        SMap.modify {} m (2 * tile + r) fun g => { g with acc := filled r g.acc }) s.tiles.regions } }

/-- The mode of a tile's array, whole or halves (03 R106; 05 R154). -/
def setHalf (s : State) (tile unit : Nat) : State :=
  { s with tiles := { s.tiles with halfMode := SMap.set false s.tiles.halfMode tile (unit != 0) } }

/-- The weighbridge's class of a cell mode: 16-, 8-, 4- and 2-bit (16 R422). -/
def workClass (kPass : Nat) : Nat := if kPass = 32 then 0 else if kPass = 64 then 1 else if kPass = 128 then 2 else 3

/-- Multiply-accumulates counted (16 R422). -/
def countWork (s : State) (cls n : Nat) : State :=
  { s with wb := { s.wb with accum := { s.wb.accum with work := SMap.modify 0 s.wb.accum.work cls (· + n) } } }

/-- Reads of C and of D's stored scales. -/
def outputReads (x : Mats) (sh : Shape) : List Acc :=
  x.ds.flatMap fun o =>
    let ps := blockPos o.origin sh.n sh.m
    if sh.cin then operandReads o ps else storedReads o ps

/-- Reads of A, B and C (05 R157). -/
def arrayReads (x : Mats) (sh : Shape) : List Acc :=
  if sh.k = 0 then outputReads x sh
  else (x.bs.flatMap fun o => operandReads o (blockPos o.origin sh.n sh.k))
    ++ (x.as_.flatMap fun o => operandReads o (blockPos o.origin sh.k sh.m)) ++ outputReads x sh

/-! ### A step whose read fails (05 R146, R157; 06 R176 to R178) -/

/-- The first K index of the last pass. -/
def lastChunk (op : ArrayOp) (x : Mats) (sh : Shape) : Nat := chunkLen op x * (ceilDiv sh.k (chunkLen op x) - 1)

/-- Whether a step has one pass only, so that C is read in the last one. -/
def onePass (op : ArrayOp) (x : Mats) (sh : Shape) : Bool :=
  lastChunk op x sh == 0 && (op.passes ((x.b 0).d.fmt == .int4)).length == 1

/-- Reads of one row of the last pass: its row of A, and its row of C where the pass is also the first (05 R157). -/
def lastPassReads (op : ArrayOp) (x : Mats) (sh : Shape) (m : Nat) : List Acc :=
  let k0 := lastChunk op x sh
  let o := x.a ((op.passes ((x.b 0).d.fmt == .int4)).getLastD { a := 0, b := 0 }).a
  operandReads o (blockPos (posA o m k0) (sh.k - k0) 1)
    ++ (if sh.cin && onePass op x sh then x.ds.flatMap fun o => readsOf o.d (blockPos (posD o m 0) sh.n 1) true false else [])

/-- Reads before the last pass starts: all of B, A in the earlier passes, C where it is not read in the last, D's scales (05
R157). -/
def earlierReads (op : ArrayOp) (x : Mats) (sh : Shape) : List Acc :=
  let k0 := lastChunk op x sh
  (x.bs.flatMap fun o => operandReads o (blockPos o.origin sh.n sh.k))
    ++ (x.as_.flatMap fun o => operandReads o (blockPos o.origin k0 sh.m))
    ++ ((op.passes ((x.b 0).d.fmt == .int4)).dropLast.flatMap fun p =>
        operandReads (x.a p.a) (blockPos (posA (x.a p.a) 0 k0) (sh.k - k0) sh.m))
    ++ (if sh.cin && onePass op x sh then x.ds.flatMap fun o => scaleReads o (blockPos o.origin sh.n sh.m) else outputReads x sh)

/-- The row of the last pass at which a read fails; 0 where a read before the last pass fails, so that nothing is written. -/
def failedRow (s : State) (e : Env) (op : ArrayOp) (x : Mats) (sh : Shape) : Nat :=
  if sh.k = 0 ∨ (runAccs s e (earlierReads op x sh)).2 ≠ .ok then 0
  else ((List.range sh.m).find? fun m => (runAccs s e (lastPassReads op x sh m)).2 != .ok).getD 0

/-- What an output path has done by the tclk at which a step's fault ends it: its writes, the final conversions among them,
recomputes and exhausted blocks. -/
structure Kept where
  writes    : List Acc
  final     : List Done
  retries   : Nat
  exhausted : Nat
  deriving DecidableEq, Repr

/-- The tclk, from the start of the last pass, at which row 0 of D is written: in a half, in the whole array; with no pass, from
issue (05 R141, R146, R155). -/
def firstWrite (unit : Nat) (sh : Shape) : Nat := if sh.k = 0 then 11 else if unit = 0 then 71 else 55

/-- One more block of output i, of which the writes before tclk lim stand. Row r of D's first attempt is written at tclk
base + r, and with two outputs at every second tclk; a later attempt starts 5 tclk after the last row of the one before and
writes a row each tclk; `wait` is what the recomputes of earlier outputs of the block take (05 R146, R152; 06 R178; log 15). -/
def Kept.add (t : Dest) (outs i base wait lim : Nat) (p : Kept) (rb : List Nat × Block) : Kept :=
  let b := rb.2
  let first := rb.1.headD 0
  let last := rb.1.getLastD 0
  let time := fun (row a : Nat) =>
    if a = 0 then base + outs * row + i
    else base + outs * last + i + wait + (a - 1) * (rb.1.length + 4) + 5 + (row - first)
  let done := fun (a : Nat) (rs : List Done) => rs.filter fun d => decide (time (d.pos.i1 - t.o.origin.i1) a < lim)
  let mode := (t.o.rec_.map StatRec.mode).getD 0
  let ended := decide (time last b.retries < lim)
  let scales := if ended || (mode == 1 && decide (time first 0 < lim)) then scaleWrites t b.scales (mode != 0) else []
  { writes := p.writes ++ ((List.zip (List.range b.attempts.length) b.attempts).flatMap fun ar =>
        writesOf t.o.d ((done ar.1 ar.2).map fun d => (d.pos, d.c.code)))
      ++ scales ++ (if ended && b.exhausted then spillWrites t (b.attempts.getLastD []) else [])
    final := p.final ++ done b.retries (b.attempts.getLastD [])
    retries := p.retries + if ended then b.retries else 0
    exhausted := p.exhausted + b2n (ended && b.exhausted) }

/-- What the recomputes of a block take (06 R178). -/
def recomputeTime (rb : List Nat × Block) : Nat := rb.2.retries * (rb.1.length + 4)

/-- What the outputs of a step have done before tclk lim: one Kept for each output. Block j of every output comes before block
j + 1 of any, and recomputes hold back the rows after them. -/
def keptOutputs (x : Mats) (base lim : Nat) (blocks : List (List (List Nat × Block))) : List Kept :=
  let outs := blocks.length
  let at_ := fun i j => ((blocks.getD i []).getD j ([], ⟨[], [], 0, false⟩))
  let start : List Kept × Nat := (List.replicate outs ⟨[], [], 0, 0⟩, base)
  ((List.range (blocks.headD []).length).foldl (fun p j =>
    let wait := fun i => ((List.range i).map fun h => recomputeTime (at_ h j)).foldl (· + ·) 0
    ((List.range outs).map fun i => (p.1.getD i ⟨[], [], 0, 0⟩).add (x.dest i) outs i p.2 (wait i) lim (at_ i j),
      p.2 + wait outs)) start).1

/-- The reads that come before a step's first real row enters: the weights of its first pass, its first rows of A and C (05
R157). -/
def firstReads (op : ArrayOp) (x : Mats) (sh : Shape) : List Acc :=
  let p := (op.passes ((x.b 0).d.fmt == .int4)).headD { a := 0, b := 0 }
  let c := min sh.k (chunkLen op x)
  operandReads (x.b p.b) (blockPos (x.b p.b).origin sh.n c) ++ operandReads (x.a p.a) (blockPos (posA (x.a p.a) 0 0) c 1)
    ++ (if sh.cin then x.ds.flatMap fun o => readsOf o.d (blockPos (posD o 0 0) sh.n 1) true false else [])

/-- A step's read, whose record notes in DETAIL whether an output block exhausted before (06 R177; 15 R398). -/
def readNoted (e : Env) (detail : BitVec 512) (r : Running) (acc : Acc) : Running :=
  match acc with
  | .rd a n look install =>
    if r.stop ≠ .ok then r
    else
      match readRun r.s (some e.quarter) look install a n with
      | (s, some w) =>
        { r with s := badWordFault s { tileFault s 0x02 .uncorrectable e.tile e.ctx e.field with detail := detail } w
                 stop := .uncorrectable }
      | (s, none) => { r with s := s }
  | .wr _ _ _ _ => r

/-- A region after a step's fault. The faulting half, or the array whose weight registers failed, makes a stall load next (05
R149, R156); a step whose first real row has not entered ends the gap only by its stall load (05 R159). -/
def faultRegions (s : State) (tile unit : Nat) (stall entered two : Bool) : State :=
  { s with tiles := { s.tiles with
      regions := (unitRegions unit).foldl (fun m r =>
        SMap.modify {} m (2 * tile + r) fun g =>
          { g with stall := stall || (g.stall && !entered), two := if entered then two else g.two
                   ramp := if entered || g.stall then 0 else g.ramp }) s.tiles.regions } }

/-- A step that a fault ends before tclk lim of its last pass: the rows written by then stand, with their statistics (05 R157).
`fault` makes the fault's record, with bit 0 of DETAIL set where an output block exhausted before (06 R177). -/
def failedArray (s : State) (e : Env) (op : ArrayOp) (x : Mats) (sh : Shape) (asked : List (Option (BitVec 16)))
    (acc : Nat → Nat → F32 × F32) (lim : Nat) (stall entered : Bool) (fault : State → BitVec 512 → State) : StepEnd :=
  let kept := keptOutputs x (firstWrite (stepUnit e.word) sh) lim ((List.range op.outputs).map fun i =>
    outputBlocks s e (x.dest i) (asked.getD i none) sh fun r n => if i = 0 then (acc r n).1 else (acc r n).2)
  let s := fault s (if kept.any fun k => k.exhausted != 0 then 1 else 0)
  let s := faultRegions s e.tile (stepUnit e.word) stall entered (chunkLen op x == 256)
  let s := (List.zip (List.range op.outputs) kept).foldl (fun s k =>
    (putStatistics (runAccs s e k.2.writes).1 e (x.dest k.1) k.2.final k.2.retries k.2.exhausted).1) s
  .done (setHalf s e.tile (stepUnit e.word)) .uncorrectable [(flagScale, false)]

/-- A step one of whose reads fails: the read of row m of A returns at tclk m − 1 of the last pass (05 R157). -/
def failedRead (s : State) (e : Env) (op : ArrayOp) (x : Mats) (sh : Shape) (asked : List (Option (BitVec 16)))
    (acc : Nat → Nat → F32 × F32) : StepEnd :=
  let entered := sh.k != 0 && (runAccs s e (firstReads op x sh)).2 == .ok
  failedArray s e op x sh asked acc (failedRow s e op x sh) (stepUnit e.word != 0) entered fun s detail =>
    (closeAccs e ((arrayReads x sh).foldl (readNoted e detail) ⟨s, false, .ok, 0⟩)).1

/-- The record of a parity error (05 R157; 15 R396, R397): the matrix array's column. -/
def parityFault (s : State) (base : Fault16) (u : ArrayUpset) (detail : BitVec 512) : State :=
  logFault s { base with cls := 0x02, status := .uncorrectable, unitClass := 1, unitIndex := u.column % 32
                         syndrome := u.column % 32, detail := detail }

/-- A step that finds a parity error: the rows written up to the tclk of the error stand (05 R156, R157). -/
def failedParity (s : State) (e : Env) (op : ArrayOp) (x : Mats) (sh : Shape) (asked : List (Option (BitVec 16)))
    (acc : Nat → Nat → F32 × F32) (u : ArrayUpset) : StepEnd :=
  failedArray s e op x sh asked acc ((u.tclk.map (· + 1)).getD 0) (stepUnit e.word != 0 || !u.acc) (sh.k != 0) fun s detail =>
    parityFault s (tileFault s 0x02 .uncorrectable e.tile e.ctx e.field) u detail

/-- The parity error that a step finds: one in its UNIT's columns. -/
def stepUpset (e : Env) (upset : Option ArrayUpset) : Option ArrayUpset :=
  upset.filter fun u => (unitRegions (stepUnit e.word)).contains (u.column % 32 / 16)

/-- The runs that may cross the ring: D and its statistics. -/
def arrayFar (e : Env) (x : Mats) (sh : Shape) : List (Nat × Nat) :=
  x.ds.flatMap fun o =>
    let ps := blockPos o.origin sh.n sh.m
    elemRuns o.d ps ++ scaleRuns o ps ++ statRuns true o (recipeOf e.fd o.d.kind).history (ps.map (o.sg.groupIndex o.d)) (ps.map o.d.index)

/-- What an ARRAY step touches (03 R90). -/
def arrayTouches (s : State) (e : Env) (op : ArrayOp) : List (Bool × List (Nat × Nat)) :=
  let w := e.word
  let sh := arrayShape w
  if (arrayForm op w).any (·.1) then []
  else
    ((List.range op.inputs).flatMap fun i =>
      inputTouches s e (stepA w + i) e.originA sh.k sh.m ++ inputTouches s e (stepB w + i) e.originB sh.n sh.k)
      ++ (List.range op.outputs).flatMap fun i => outputTouches s e sh (stepD w + i)

/-- The slots that an ARRAY step reads (05 R137; 06 R164). -/
def arraySlots (s : State) (e : Env) (op : ArrayOp) : List Nat :=
  issueSlots s e ((List.range op.inputs).flatMap fun i => [stepA e.word + i, stepB e.word + i])
    ((List.range op.outputs).map fun i => stepD e.word + i) []

/-- An ARRAY step (05 R136 to R157; 06 R174 to R178); `upset` is the parity error that it finds, if any. -/
def doArray (op : ArrayOp) (upset : Option ArrayUpset) (s : State) (e : Env) : StepEnd :=
  let sh := arrayShape e.word
  let slots := arraySlots s e op
  let s := readKey (readSlots s e slots) e
  let st := Status.lowest (arrayConds s e op)
  let no := [(flagScale, false)]
  let x := arrayMats s e op
  if st ≠ .ok then .done (recordRefused s e st (arrayTouches s e op)) st no
  else if sh.m = 0 ∨ sh.n = 0 then .done s .ok no
  else if runsCut s e (arrayFar e x sh) then .block (latch s e slots)
  else
    let acc := arrayAcc s e.quarter op x sh
    let (s, asked, ast) := askScales s e ((List.range op.outputs).map x.dest)
    if ast = .uncorrectable then .done s ast no
    else
      let read := runAccs s e (arrayReads x sh)
      if read.2 = .uncorrectable then failedRead s e op x sh asked acc
      else
        match stepUpset e upset with
        | some u => failedParity read.1 e op x sh asked acc u
        | none =>
          let s := if sh.k = 0 then read.1
            else countWork (useRegions read.1 e.tile (stepUnit e.word) (chunkLen op x == 256) (stepWeights read.1 e.quarter op x sh))
              (workClass (chunkLen op x)) (sh.m * sh.n * sh.k * (op.passes ((x.b 0).d.fmt == .int4)).length)
          let s := setHalf (fillAccumulators s e.tile (stepUnit e.word) op sh acc) e.tile (stepUnit e.word)
          let outs := (List.range op.outputs).foldl (fun (p : State × Bool × Status) i =>
            let (s, ex, st) := outputDest p.1 e (x.dest i) (asked.getD i none) sh fun m n => if i = 0 then (acc m n).1 else (acc m n).2
            (s, p.2.1 || ex, Status.lowest [(p.2.2 != .ok, p.2.2), (st != .ok, st)])) (s, false, ast)
          let st := if outs.2.2 = .uncorrectable then .uncorrectable
            else Status.lowest [(outs.2.2 != .ok, outs.2.2), (outs.2.1, .scaleExhausted)]
          .done outs.1 st [(flagScale, st == .scaleExhausted)]

/-- ARRAY with a reserved OP (05 R137): SCALE is written as on every completion of the class (03 R80). -/
def doMatmul (upset : Option ArrayUpset) (s : State) (e : Env) : StepEnd :=
  if stepOp e.word = 1 then doArray .matmul upset s e else .done s .reserved [(flagScale, false)]

/-- MATMUL, and the reserved ARRAY operations (log 1). -/
def execMatmul (tile ctx : Nat) (upset : Option ArrayUpset) (s : State) : Host.Outcome State Fault Refusal :=
  .next (runStep s tile ctx 0x04 (fun op => op == 1 || op == 0 || 7 ≤ op) (doMatmul upset))
/-- SPLIT3 (05 R151). -/
def execSplit3 (tile ctx : Nat) (upset : Option ArrayUpset) (s : State) : Host.Outcome State Fault Refusal :=
  .next (runStep s tile ctx 0x04 (· == 2) (doArray .split3 upset))
/-- CPLX3 (05 R152). -/
def execCplx3 (tile ctx : Nat) (upset : Option ArrayUpset) (s : State) : Host.Outcome State Fault Refusal :=
  .next (runStep s tile ctx 0x04 (· == 3) (doArray .cplx3 upset))
/-- CPLX4 (05 R152). -/
def execCplx4 (tile ctx : Nat) (upset : Option ArrayUpset) (s : State) : Host.Outcome State Fault Refusal :=
  .next (runStep s tile ctx 0x04 (· == 4) (doArray .cplx4 upset))
/-- WIDE8 (05 R153). -/
def execWide8 (tile ctx : Nat) (upset : Option ArrayUpset) (s : State) : Host.Outcome State Fault Refusal :=
  .next (runStep s tile ctx 0x04 (· == 5) (doArray .wide8 upset))
/-- MATMUL_STALL (05 R137, R149): MATMUL after a stall load, which only takes time and leaves the shadow registers alone. -/
def execMatmulStall (tile ctx : Nat) (upset : Option ArrayUpset) (s : State) : Host.Outcome State Fault Refusal :=
  .next (runStep s tile ctx 0x04 (· == 6) (doArray .matmul upset))

/-! ### Chaff (05 R159, R160; 13 R363) -/

/-- One output of the generator. -/
def xorshift (s : BitVec 64) : BitVec 64 :=
  let s := s ^^^ (s <<< 13)
  let s := s ^^^ (s >>> 7)
  s ^^^ (s <<< 17)

/-- n outputs. -/
def xorshiftN : Nat → BitVec 64 → BitVec 64
  | 0, s => s
  | n + 1, s => xorshiftN n (xorshift s)

/-- The generator of a tile at power-on reset. -/
def chaffSeed (t : Nat) : BitVec 64 := 0x9E3779B97F4A7C15 ^^^ BitVec.ofNat 64 t

/-- The generator of a tile after the 32 rows that its active weight registers take at power-on reset (13 R363). -/
def powerChaff (t : Nat) : BitVec 64 := xorshiftN 256 (chaffSeed t)

/-- The active weights of a region after 32 rows taken from a generator: 8 outputs to a row, 16 bits to a cell (13 R363). -/
def chaffWeights (g : BitVec 64) (r : Nat) : List (List Nat) :=
  (List.range 32).map fun i => (List.range 16).map fun n =>
    (xorshiftN (8 * i + (16 * r + n) / 4 + 1) g).toNat >>> (16 * (n % 4)) % 65536

/-- The weights in a region's cells: those taken at power-on reset where none are listed. -/
def cellWeights (s : State) (t r : Nat) : List (List Nat) :=
  let g := SMap.get {} s.tiles.regions (2 * t + r)
  if g.active.isEmpty then chaffWeights (chaffSeed t) r else g.active

/-- A tile's generator after n more outputs. -/
def chaffTake (s : State) (t n : Nat) : State :=
  let step := fun x => xorshiftN n (x ^^^ powerChaff t) ^^^ powerChaff t
  { s with tiles := { s.tiles with chaff := SMap.modify 0 s.tiles.chaff t step } }

/-- Rows per window at ramp step i of a gap, 64 tclk in step 0 and 32 in the others (05 R160). -/
def chaffRows (floor_ i : Nat) : Nat :=
  let rf := (64 * floor_ + 100) / 200
  if i = 0 then 64 else if i ≤ 8 then 32 - ceilDiv ((32 - rf) * i) 8 else rf

/-- The regions whose gap a window of a region counts: in whole-array mode there is one gap (05 R154, R160). -/
def gapRegions (s : State) (tile region : Nat) : List Nat :=
  if SMap.get false s.tiles.halfMode tile then [region % 2] else [0, 1]

/-- CHAFF_DENSITY_STEP (05 R160): the window that ends has taken its rows from the tile's generator, and the gap goes on at the
next density. Chaff runs on tiles that a field occupies, and not in idle or rest (05 R159). A parity error found then ends no
step; it is recorded, and its region's next pass makes a stall load (05 R157). -/
def execChaffDensityStep (tile region : Nat) (upset : Option ArrayUpset) (s : State) : Host.Outcome State Fault Refusal :=
  let gap := gapRegions s tile region
  let r := SMap.get {} s.tiles.regions (2 * tile + gap.headD 0)
  .next (if tileRuns s tile ∧ !(fieldsOn s tile).isEmpty then
      let s := chaffTake s tile (chaffRows s.fields.chaffFloor r.ramp * (if r.two then 16 else 8))
      let s := { s with tiles := { s.tiles with
        regions := gap.foldl (fun m k => SMap.modify {} m (2 * tile + k) fun g => { g with ramp := min 9 (r.ramp + 1) }) s.tiles.regions } }
      match upset.filter fun u => gap.contains (u.column % 32 / 16) with
      | some u =>
        let s := parityFault s { mkFault s 0x02 .uncorrectable (tileQuarter tile) with
          tile := tile, div := tileDiv s tile, temp := sensor s (tileQuarter tile) } u 0
        { s with tiles := { s.tiles with
            regions := SMap.modify {} s.tiles.regions (2 * tile + u.column % 32 / 16) fun g => { g with stall := true } } }
      | none => s
    else s)

end Sys2Proof.Machine
end

