-- ==== Sys2Proof/Machine/Functions.lean ====
section
/-! DEFINITION. The function stage (07 R195, R196): the interval coefficients are built from correctly rounded values of
each function at the interval's ends and middle, taken from a fixed-point evaluation with 256 fraction bits (log 7). -/
namespace Sys2Proof.Machine

/-- Fraction bits of the fixed-point evaluation. -/
def fixBits : Nat := 256
def fixOne : Nat := 2 ^ fixBits

/-- Integer square root by bits: the largest r with r² ≤ n, from 2^k down. -/
def isqrtGo (n : Nat) : Nat → Nat → Nat
  | 0, r => r
  | k + 1, r =>
    let r' := r + 2 ^ k
    isqrtGo n k (if r' * r' ≤ n then r' else r)

def isqrt (n : Nat) : Nat := isqrtGo n (n.log2 / 2 + 1) 0

/-- Σ termᵢ, where each term is the one before times x / (d · fixOne), d rising from d0 by ds. -/
def seriesGo (x ds : Nat) : Nat → Nat → Nat → Nat → Nat
  | 0, _, _, acc => acc
  | n + 1, d, term, acc =>
    let t := term * x / (fixOne * d)
    seriesGo x ds n (d + ds) t (acc + t)

/-- e^x of a fixed-point x ≥ 0. -/
def expFix (x : Nat) : Nat := seriesGo x 1 400 1 fixOne fixOne

/-- Σ x^(2k+1) / (2k+1), with alternating signs for arctan. -/
def oddSeriesGo (x2 : Nat) (alt : Bool) : Nat → Nat → Nat → Int → Int
  | 0, _, _, acc => acc
  | n + 1, k, p, acc =>
    let t : Int := (p / (2 * k + 1) : Nat)
    oddSeriesGo x2 alt n (k + 1) (p * x2 / fixOne) (if alt && k % 2 == 1 then acc - t else acc + t)

def atanhFix (x : Nat) : Nat := (oddSeriesGo (x * x / fixOne) false 200 0 x 0).toNat
def atanFix (x : Nat) : Nat := (oddSeriesGo (x * x / fixOne) true 200 0 x 0).toNat

def ln2Fix : Nat := 2 * atanhFix (fixOne / 3)
def piFix : Nat := 16 * atanFix (fixOne / 5) - 4 * atanFix (fixOne / 239)

/-- The functions of 07 R195. -/
inductive Func where
  | exp2 | log2 | recip | rsqrt | sigmoid | tanh | erf
  deriving DecidableEq, Repr

/-- F(u) at u = num/den, correctly rounded to FP32 (07 R196). For RSQRT u is the argument m of m^−½; for LOG2 and RECIP
the argument 1 + u; both as num/den. -/
def funcNode (f : Func) (num den : Nat) : F32 :=
  let x := fixOne * num / den
  match f with
  | .exp2 => rne false (expFix (ln2Fix * x / fixOne)) fixOne 0
  | .log2 =>
    if num = den then 0
    else rne false (fixOne * (2 * atanhFix (fixOne * (num - den) / (num + den))) / ln2Fix) fixOne 0
  | .recip => rne false den num 0
  | .rsqrt => rne false (isqrt (fixOne * fixOne * den / num)) fixOne 0
  | .sigmoid => let e := expFix x; rne false e (e + fixOne) 0
  | .tanh => if num = 0 then 0 else let e := expFix (2 * x); rne false (e - fixOne) (e + fixOne) 0
  | .erf =>
    if num = 0 then 0
    else
      let x2 := x * x / fixOne
      let s := seriesGo (2 * x2) 2 500 3 x x
      let v := fixOne * (fixOne * (2 * s) / isqrt (piFix * fixOne)) / expFix x2
      rne false v fixOne 0

/-- An exact linear combination of FP32 values, rounded once (07 R196). -/
def linComb (cs : List (Int × F32)) : F32 :=
  (cs.foldl (fun (acc : Fp) (c : Int × F32) => acc.add ((Fp.fin (decide (c.1 < 0)) c.1.natAbs 0).mul (dec c.2))) (Fp.fin false 0 0)).rnd

/-- The quadratic of an interval at t (07 R196): y0, y1, y2 at its start, middle and end. -/
def quadratic (y0 y1 y2 t : F32) : F32 :=
  let c1 := linComb [(-3, y0), (4, y1), (-1, y2)]
  let c2 := linComb [(2, y0), (-4, y1), (2, y2)]
  let v := fmul c2 t
  let v := fadd v c1
  let v := fmul v t
  fadd v y0

/-- q of u = m·2^e exactly, in a range that starts at lo (an integer) with interval width 2^−hb; `off` is what the node's
argument adds to u (1 for LOG2, RECIP and the lower RSQRT range, 2 for the upper). -/
def interval (f : Func) (off hb m : Nat) (e : Int) : F32 :=
  -- u / h as k + r/den
  let (k, r, den) := splitInt m (e + hb)
  let t := if r = 0 then 0 else rne false r den 0
  let d := 2 ^ (hb + 1)
  let node := fun i => funcNode f (off * d + i) d
  quadratic (node (2 * k)) (node (2 * k + 1)) (node (2 * k + 2)) t

/-- q × 2^n, rounded. -/
def scaleBy (neg : Bool) (q : F32) (n : Int) : F32 :=
  match dec q with
  | .fin _ m e => if m = 0 then f32Zero neg else rne neg m 1 (e + n)
  | _ => f32NaN

/-- A finite nonzero magnitude as 2^n · (1 + m'/2^s): n, m', s (subnormals normalised exactly). -/
def normalise (m : Nat) (e : Int) : Int × Nat × Nat :=
  let l := m.log2
  (e + l, m - 2 ^ l, l)

/-- The function stage (07 R195). -/
def funcEval (f : Func) (x : F32) : F32 :=
  match f, dec x with
  | _, .nan => f32NaN
  | .exp2, .inf n => if n then 0 else f32Inf false
  | .exp2, .fin n m e =>
    let i := floorInt n m e
    -- u = x - floor(x), over 2^e when e < 0
    if e ≥ 0 then scaleBy false f32One (clampInt (-400) 400 i)
    else
      let den := 2 ^ (-e).toNat
      let v : Int := if n then -(m : Int) else m
      let um := (v - i * den).toNat
      scaleBy false (interval .exp2 0 6 um e) (clampInt (-400) 400 i)
  | .log2, .inf n => if n then f32NaN else f32Inf false
  | .log2, .fin n m e =>
    if m = 0 then f32Inf true
    else if n then f32NaN
    else
      let (k, u, s) := normalise m e
      fadd (f32OfInt k) (interval .log2 1 6 u (-(s : Int)))
  | .recip, .inf n => f32Zero n
  | .recip, .fin n m e =>
    if m = 0 then f32Inf n
    else
      let (k, u, s) := normalise m e
      scaleBy n (interval .recip 1 6 u (-(s : Int))) (-k)
  | .rsqrt, .inf n => if n then f32NaN else 0
  | .rsqrt, .fin n m e =>
    if m = 0 then f32Inf n
    else if n then f32NaN
    else
      let (k, u, s) := normalise m e
      -- x = 4^j · mm with mm in [1, 4)
      if k % 2 = 0 then scaleBy false (interval .rsqrt 1 6 u (-(s : Int))) (-(k / 2))
      else scaleBy false (interval .rsqrt 2 5 (2 * u) (-(s : Int))) (-((k - 1) / 2))
  | .sigmoid, .inf n => if n then 0 else f32One
  | .sigmoid, .fin n m e =>
    if flt (fabs x) 0x41800000 then
      let q := interval .sigmoid 0 4 m e
      if n && m ≠ 0 then fsub f32One q else q
    else if n then 0 else f32One
  | .tanh, .inf n => if n then fneg f32One else f32One
  | .tanh, .fin n m e =>
    if flt (fabs x) 0x41000000 then
      let q := interval .tanh 0 5 m e
      if n then fneg q else q
    else if n then fneg f32One else f32One
  | .erf, .inf n => if n then fneg f32One else f32One
  | .erf, .fin n m e =>
    if flt (fabs x) 0x40800000 then
      let q := interval .erf 0 6 m e
      if n then fneg q else q
    else if n then fneg f32One else f32One

/-- recip and rsqrt as the update engine uses them (12 R338, R342). -/
def frecip (x : F32) : F32 := funcEval .recip x
def frsqrt (x : F32) : F32 := funcEval .rsqrt x

end Sys2Proof.Machine
end

