-- ==== Sys2Proof/Machine/Chain.lean ====
section
/-! DEFINITION. The vector chain: shapes (07 R181 to R183), CHAIN steps and their checks (R180, R185 to R189), the stages
(R190 to R199), segments (R200), the scalar block (R201) and its flags (R192, R202). -/
namespace Sys2Proof.Machine

/-! ### Shapes (07 R181, R182) -/

/-- A stage word. -/
structure Stage where
  type  : Nat
  sub   : Nat
  x     : Nat
  y     : Nat
  z     : Nat
  mode  : Nat
  const : Nat
  deriving DecidableEq, Repr

def Stage.parse (w : Nat) : Stage :=
  ⟨bits w 55 52, bits w 51 48, bits w 47 44, bits w 43 40, bits w 39 36, bits w 35 32, bits w 31 0⟩

/-- A shape: the header and the stages of the used positions. -/
structure ChainShape where
  scalarSlot : Nat
  ctxSel     : Nat
  bRole      : Nat
  stages     : List Stage
  deriving DecidableEq, Repr

def ChainShape.parse (r : BitVec 512) : ChainShape :=
  let x := r.toNat
  { scalarSlot := bits x 63 48, ctxSel := bits x 18 16, bRole := bits x 9 8
    stages := (List.range (bits x 2 0 + 1)).map fun p => Stage.parse (bits x (64 + 56 * p + 55) (64 + 56 * p)) }

def ChainShape.storeStage (c : ChainShape) : Option Stage := c.stages.find? (·.type == 8)
def ChainShape.names (c : ChainShape) (src : Nat) : Bool := c.stages.any fun t => t.type == 1 && t.x == src
def ChainShape.usesA (c : ChainShape) : Bool := c.names 8
def ChainShape.usesB (c : ChainShape) : Bool := c.bRole != 0 || c.names 9
def ChainShape.usesD (c : ChainShape) : Bool := c.storeStage.isSome
/-- The store is in segment mode. -/
def ChainShape.segmentStore (c : ChainShape) : Bool := (c.storeStage.map fun t => bit t.mode 0).getD false
/-- A segmented scan carries its first segment in (07 R199, R200). -/
def ChainShape.carryIn (c : ChainShape) : Bool := c.stages.any fun t => t.type == 7 && bit t.mode 1 && bit t.const 2
def ChainShape.carryOut (c : ChainShape) : Bool := c.stages.any fun t => t.type == 7 && bit t.const 3

/-! ### Operands (07 R185 to R188) -/

/-- Formats accepted as A, and as B for each B_ROLE, and as D (07 R187). -/
def chainA (f : Fmt) : Bool := f != .none && f != .lo16
def chainB (role : Nat) (f : Fmt) : Bool :=
  if role = 0 then chainA f else if role = 2 then f == .uint8 else f == .int32
def chainD (f : Fmt) : Bool := chainA f && f != .hi16

/-- A CHAIN step's operands as read at issue. -/
structure ChainIn where
  shape  : ChainShape
  slotO  : Nat
  count  : Nat
  a      : Operand
  b      : Operand
  d      : Operand
  deriving DecidableEq, Repr

def ChainIn.a0 (c : ChainIn) : Nat := c.a.d.index c.a.origin
def ChainIn.b0 (c : ChainIn) : Nat := c.b.d.index c.b.origin
def ChainIn.d0 (c : ChainIn) : Nat := c.d.d.index c.d.origin
/-- The scalar block's slot (07 R180, R201). -/
def ChainIn.block (c : ChainIn) : Option Nat := if c.shape.scalarSlot = 0xFFFF then none else some (c.shape.scalarSlot + c.slotO)

def chainIn (s : State) (e : Env) : ChainIn :=
  { shape := ChainShape.parse (e.fd.shapes.getD (bits (stepHi e.word) 5 0) 0), slotO := bits (stepHi e.word) 13 6
    count := stepLo e.word
    a := operand s e (stepA e.word) e.originA, b := operand s e (stepB e.word) e.originB
    d := operand s e (stepD e.word) e.originD }

/-- Element e of an operand. -/
def Operand.at (o : Operand) (e : Nat) : Pos := o.d.pos e
def elemsAt (o : Operand) (e0 n : Nat) : List Pos := (List.range n).map fun j => o.at (e0 + j)

/-- Whether a shape passes a stream's elements on; one that only broadcasts addresses element 0 alone (07 R186, R190). -/
def ChainShape.passes (c : ChainShape) (src : Nat) : Bool := c.stages.any fun t => t.type == 1 && t.x == src && t.sub == 0

/-- The elements of A that a step addresses. -/
def ChainIn.aElems (c : ChainIn) : Nat := if c.shape.passes 8 then c.count else 1

/-- The elements of B that a step may read, whatever they hold. -/
def ChainIn.bElems (c : ChainIn) : Nat :=
  match c.shape.bRole with
  | 0 => if c.shape.passes 9 then c.count else 1
  | 1 => 1
  | 2 => ceilDiv c.count 8
  | _ => max 1 (c.b.d.total - c.b0)

/-- The runs of A, B and D that the checks look at. -/
def ChainIn.runsA (c : ChainIn) : List (Nat × Nat) := if c.shape.usesA then elemRuns c.a.d (elemsAt c.a c.a0 c.aElems) else []
def ChainIn.runsB (c : ChainIn) : List (Nat × Nat) := if c.shape.usesB then elemRuns c.b.d (elemsAt c.b c.b0 c.bElems) else []
def ChainIn.runsD (c : ChainIn) : List (Nat × Nat) := if c.shape.usesD then elemRuns c.d.d (elemsAt c.d c.d0 c.count) else []
/-- Whether an operand's n elements from e0 lie within the product of its extents (07 R186). -/
def fits (o : Operand) (e0 n : Nat) : Bool := e0 + n ≤ o.d.total

/-- An item's origin lies within the extents of an operand that a step uses. -/
def originOk (o : Operand) : Bool := o.d.within o.origin

/-- Conditions on one operand's slot and form; `used` says whether the shape uses it. -/
def chainSlot (s : State) (e : Env) (used : Bool) (slot : Nat) (origin : Pos) (accepts : Fmt → Bool) (dest : Bool) : List (Bool × Status) :=
  if !used then [(slot != 0xFFFF, .reserved)]
  else
    let c := operandConds s e slot origin accepts dest
    if c.any (·.1) then c else [((operand s e slot origin).d.layout != 0, .range), (!originOk (operand s e slot origin), .range)]

/-- Conditions on the scalar block (07 R185, R201). -/
def blockConds (s : State) (e : Env) (c : ChainIn) : List (Bool × Status) :=
  match c.block with
  | none => []
  | some slot =>
    let sl := slotConds s e slot
    if sl.any (·.1) then sl else [(bits (leNat (slotBytes s e slot)) 255 128 != 0, .reserved)]

/-- MODE 2 at D: AXIS 0 and whole groups (07 R194). -/
def mode2Ok (c : ChainIn) : Bool :=
  (c.d.rec_.map StatRec.mode).getD 0 != 2
    || (c.d.sg.axis == 0 &&
      (let g := groupLen c.d.sg.group
       let p := c.d.at c.d0
       let q := c.d.at (c.d0 + c.count - 1)
       p.i0 % g == 0 && ((q.i0 + 1) % g == 0 || q.i0 + 1 == c.d.d.ext.i0)))

/-- D coincides with A in the way that 07 R189 allows. -/
def coincides (c : ChainIn) : Bool :=
  let a := c.a.d
  let d := c.d.d
  c.shape.usesA && !c.shape.segmentStore && a.base == d.base && a.fmtCode == d.fmtCode && a.rank == d.rank && a.ext == d.ext
    && a.s1 == d.s1 && a.s2 == d.s2 && a.s3 == d.s3 && c.a0 == c.d0

/-- The runs of the scalar block. -/
def ChainIn.blockRuns (c : ChainIn) (tile : Nat) : List (Nat × Nat) :=
  match c.block with
  | some slot => [(padAddr tile (32 * slot), 32)]
  | none => []

/-- Conditions on the addresses (07 R185, R186, R189), when the forms pass. -/
def chainPlaces (s : State) (e : Env) (c : ChainIn) : List (Bool × Status) :=
  let inOk := fun (used : Bool) (o : Operand) (e0 n : Nat) (runs : List (Nat × Nat)) =>
    if !used then [] else
      [(!fits o e0 n || !runsInPad e.tile runs, Status.range)] ++ runConds s e false runs
        ++ runConds s e false (scaleRuns o (elemsAt o e0 n)) ++ zeroConds s (some e.quarter) o (elemsAt o e0 n)
  inOk c.shape.usesA c.a c.a0 c.aElems c.runsA ++ inOk c.shape.usesB c.b c.b0 c.bElems c.runsB
    ++ (if !c.shape.usesD then [] else
      [ (!fits c.d c.d0 c.count || c.runsD.any (fun r => windowBase ≤ r.1) || !mode2Ok c, .range),
        (runsOverlap c.runsD (c.runsB ++ c.blockRuns e.tile) || (!coincides c && runsOverlap c.runsD c.runsA), .range) ]
        ++ destConds s e false c.d (elemsAt c.d c.d0 c.count) ++ keyConds s e c.d.d.kind)
where
  runsInPad (tile : Nat) (runs : List (Nat × Nat)) : Bool :=
    runs.all fun r => inPad tile r.1 && inPad tile (r.1 + r.2 - 1)

/-- What a CHAIN step touches, when its forms pass. -/
def chainTouches (e : Env) (c : ChainIn) : List (Bool × List (Nat × Nat)) :=
  let input := fun (used : Bool) (o : Operand) (e0 n : Nat) (runs : List (Nat × Nat)) =>
    if used && fits o e0 n then [(false, runs), (false, scaleRuns o (elemsAt o e0 n))] else []
  input c.shape.usesA c.a c.a0 c.aElems c.runsA ++ input c.shape.usesB c.b c.b0 c.bElems c.runsB
    ++ (if c.shape.usesD && fits c.d c.d0 c.count then destTouches e false c.d (elemsAt c.d c.d0 c.count) else [])

/-- The conditions on the forms of a CHAIN step: its word, its count, its operands (07 R185). -/
def chainForms (s : State) (e : Env) (c : ChainIn) : List (Bool × Status) :=
  (c.count == 0 || 16384 < c.count, .range)
    :: chainSlot s e c.shape.usesA (stepA e.word) e.originA chainA false
    ++ chainSlot s e c.shape.usesB (stepB e.word) e.originB (chainB c.shape.bRole) false
    ++ (if c.shape.bRole = 2 ∧ stepB e.word < 0x8000 then [(c.b.d.scaleSlot != 0xFFFF, .range)] else [])
    ++ chainSlot s e c.shape.usesD (stepD e.word) e.originD chainD true
    ++ blockConds s e c

/-- The conditions of 07 R185 in full. -/
def chainConds (s : State) (e : Env) : List (Bool × Status) :=
  let form : List (Bool × Status) := [(stepOp e.word != 1 || stepUnit e.word != 0, .reserved)]
  if e.fd.shapes.length ≤ bits (stepHi e.word) 5 0 then form ++ [(true, .range)]
  else
    let c := chainIn s e
    let first := form ++ chainForms s e c
    if first.any (·.1) then first else chainPlaces s e c

/-! ### Segments (07 R200) -/

/-- The signed INT32 element of B. -/
def lengthAt (s : State) (q : Nat) (o : Operand) (e : Nat) : Int := toSigned 32 (elemCode s (some q) o.d (o.at e))

/-- Segments of a length list: first and last element plus one, the last one for what the list leaves; how many lengths are
read; whether one is negative. Lengths past the last live element are not read. -/
def lengthSegs (s : State) (q : Nat) (c : ChainIn) (live : Nat) : Nat → Nat → Nat → List (Nat × Nat) × Nat × Bool
  | 0, _, pos => if pos < live then ([(pos, live)], 0, false) else ([], 0, false)
  | n + 1, e, pos =>
    if live ≤ pos then ([], 0, false)
    else
      let l := lengthAt s q c.b e
      let stop := min live (pos + l.toNat)
      let (segs, k, neg) := lengthSegs s q c live n (e + 1) stop
      ((pos, stop) :: segs, k + 1, neg || decide (l < 0))

/-- Segments of start bits. -/
def bitSegs (s : State) (q : Nat) (c : ChainIn) (carryIn : Bool) : List (Nat × Nat) :=
  let on := fun j => (elemCode s (some q) c.b.d (c.b.at (c.b0 + j / 8))).testBit (j % 8)
  let starts := upTo c.count fun j => j == 0 || on j
  let segs := List.zip starts (starts.drop 1 ++ [c.count])
  if carryIn && on 0 then (0, 0) :: segs else segs

/-- The live elements (07 R188). -/
def liveCount (s : State) (q : Nat) (c : ChainIn) : Nat :=
  if c.shape.bRole = 1 then min c.count (lengthAt s q c.b c.b0).toNat else c.count

/-- A step's segments, the lengths read, and whether one is negative. -/
def chainSegs (s : State) (q : Nat) (c : ChainIn) : List (Nat × Nat) × Nat × Bool :=
  if c.shape.bRole = 2 then (bitSegs s q c c.shape.carryIn, 0, false)
  else if c.shape.bRole = 3 then lengthSegs s q c c.count (c.b.d.total - c.b0) c.b0 0
  else ([], 0, false)

/-- The elements that start a segment: with CARRY_IN the first segment goes on. -/
def segStarts (segs : List (Nat × Nat)) (carryIn : Bool) : List Nat :=
  ((if carryIn then segs.drop 1 else segs).filter fun g => g.1 < g.2).map (·.1)

/-! ### Stages (07 R190 to R199) -/

/-- The identity of a reduction (07 R199). -/
def chainIdentity : Nat → F32
  | 0 => 0x80000000 | 1 => 0xFF800000 | _ => 0x7F800000

def chainOp (sub : Nat) (a b : F32) : F32 := if sub = 0 then fadd a b else if sub = 1 then fmax a b else fmin a b

/-- The scan procedure's variables within a beat. -/
structure Scanning where
  base  : F32
  local_ : Option F32
  prev  : F32
  out   : List F32
  deriving DecidableEq, Repr

/-- One lane of a beat. -/
def scanLane (sub : Nat) (excl : Bool) (z : Scanning) (start : Bool) (x : F32) : Scanning :=
  let z := if start then { z with base := chainIdentity sub, local_ := none, prev := chainIdentity sub } else z
  let l := match z.local_ with
    | none => x
    | some v => chainOp sub v x
  let incl := chainOp sub z.base l
  { base := z.base, local_ := some l, prev := incl, out := (if excl then z.prev else incl) :: z.out }

/-- The scan of 07 R199 over live elements, with the elements that start a segment: the outputs and the final carry. -/
def scanRun (sub : Nat) (excl : Bool) (starts : List Nat) (carry : F32) (xs : List F32) : List F32 × F32 :=
  let z := (List.zip (List.range xs.length) xs).foldl (fun (z : Scanning) jx =>
    let z := if jx.1 % 64 = 0 then { z with base := z.prev, local_ := none } else z
    scanLane sub excl z (starts.contains jx.1) jx.2) ⟨carry, none, carry, []⟩
  (z.out.reverse, z.prev)

/-- An arithmetic stage (07 R191). -/
def arithStage (sub : Nat) (x y z : F32) : F32 :=
  match sub with
  | 0 => fadd x y | 1 => fsub x y | 2 => fmul x y | 3 => ffma x y z | 4 => fmin x y | 5 => fmax x y
  | 6 => fabs x | 7 => fneg x | _ => ffloor x

/-- A compare-select stage's condition (07 R192). -/
def compareStage (sub : Nat) (x y : F32) : Bool :=
  match sub with
  | 0 => feq x y | 1 => !feq x y | 2 => flt x y | 3 => flt x y || feq x y | 4 => flt y x | _ => flt y x || feq x y

/-- The function of a SUB (07 R195). -/
def funcOf : Nat → Func
  | 0 => .exp2 | 1 => .log2 | 2 => .recip | 3 => .rsqrt | 4 => .sigmoid | 5 => .tanh | _ => .erf

/-- INT and TRUNC (07 R193): a zero keeps the sign. -/
def intStage (trunc : Bool) (mode : Round) (x : F32) : F32 :=
  match dec x with
  | .fin n m e =>
    let v := if trunc then (let k : Int := (splitInt m e).1; if n then -k else k) else roundInt mode n m e
    if v = 0 then f32Zero n else f32OfInt v
  | _ => x

/-- QDQ's zero point (07 R193), none for NaN. -/
def qdqZero (f : Fmt) (z : F32) : Option Nat :=
  if !f.unsigned then some 0
  else
    match dec z with
    | .nan => none
    | .inf n => some (if n then 0 else f.zeroMax)
    | .fin n m e => some (clampInt 0 f.zeroMax (roundInt .nearest n m e)).toNat

/-- QDQ of one lane: the output and whether it is a non-finite event. -/
def qdqStage (f : Fmt) (mode : Round) (x sc z : F32) : F32 × Bool :=
  match qdqZero f z with
  | none => (f32NaN, true)
  | some zp =>
    let c := f.convert mode x sc zp
    (f.element c.code sc zp, c.event)

/-- What the stages have made: outputs of the positions so far, CMP, NONFINITE, and the scalars written. -/
structure ChainRun where
  outs   : List (List F32)
  cmp    : Bool
  nonfin : Bool
  scals  : List (Nat × F32)
  deriving DecidableEq, Repr

/-- What the stages draw on. -/
structure ChainEnv where
  live   : Nat
  va     : List F32
  vb     : List F32
  scal   : Nat → F32
  ctxVal : F32
  starts : List Nat
  /-- The rounding mode at element j. -/
  mode   : Nat → Round

/-- A source's value on every live lane (07 R183). -/
def chainSource (v : ChainEnv) (outs : List (List F32)) (const src : Nat) : List F32 :=
  if src ≤ 6 then outs.getD src []
  else if src = 7 then (List.range v.live).map fun j : Nat => f32OfInt (j : Int)
  else if src = 8 then v.va
  else if src = 9 then v.vb
  else List.replicate v.live
    (if src = 0xA then BitVec.ofNat 32 const else if src = 0xF then v.ctxVal else v.scal (src - 0xB))

/-- One stage. -/
def runStage (v : ChainEnv) (r : ChainRun) (t : Stage) : ChainRun :=
  let src := chainSource v r.outs t.const
  let xs := src t.x
  let put := fun out => { r with outs := r.outs ++ [out] }
  let lanes3 := fun (f : F32 → F32 → F32 → F32) (ys zs : List F32) => (List.zip xs (List.zip ys zs)).map fun p => f p.1 p.2.1 p.2.2
  let bad := xs.any fun x => !f32Finite x
  match t.type with
  | 1 => put (if t.sub = 1 then List.replicate v.live (xs.headD 0) else xs)
  | 2 => put (lanes3 (arithStage t.sub) (if t.sub ≤ 5 then src t.y else xs) (if t.sub = 3 then src t.z else xs))
  | 3 =>
    let ys := src t.y
    let conds := (List.zip xs ys).map fun p => compareStage t.sub p.1 p.2
    let m := t.mode % 4
    let out := if m = 2 then conds.map fun b => if b then f32One else 0
      else (List.zip conds (List.zip (if m = 1 then ys else xs) (src t.z))).map fun p => if p.1 then p.2.1 else p.2.2
    { put out with cmp := if bit t.mode 3 then conds.all id else conds.any id }
  | 4 => put (xs.map (funcEval (funcOf t.sub)))
  | 5 =>
    if t.sub = 0 then
      let f := (Fmt.ofCode (t.const % 64)).getD .none
      let zs := if f.unsigned then src t.z else xs
      let res := (List.zip (List.range v.live) (List.zip xs (List.zip (src t.y) zs))).map fun p =>
        qdqStage f (v.mode p.1) p.2.1 p.2.2.1 p.2.2.2
      { put (res.map (·.1)) with nonfin := r.nonfin || res.any (·.2) }
    else put ((List.zip (List.range v.live) xs).map fun p => intStage (t.sub == 2) (v.mode p.1) p.2)
  | 6 =>
    let k := t.const % 4
    let (_, fin) := scanRun t.sub false [] (if bit t.const 2 then v.scal k else chainIdentity t.sub) xs
    { put xs with nonfin := r.nonfin || bad, scals := r.scals ++ [(k, fin)] }
  | 7 =>
    let k := t.const % 4
    let (out, fin) := scanRun t.sub (bit t.mode 0) (if bit t.mode 1 then v.starts else [])
      (if bit t.const 2 then v.scal k else chainIdentity t.sub) xs
    { put out with nonfin := r.nonfin || bad, scals := if bit t.const 3 then r.scals ++ [(k, fin)] else r.scals }
  | _ => { put xs with nonfin := r.nonfin || bad }

/-! ### The store (07 R194, R200) -/

/-- The value that a segment with no element writes. -/
def emptyValue (v : ChainEnv) (c : ChainShape) (src : Nat) (carried : Bool) : F32 :=
  match (if src ≤ 6 then c.stages[src]? else none) with
  | some t =>
    if t.type = 7 then (if carried && bit t.const 2 then v.scal (t.const % 4) else chainIdentity t.sub) else chainIdentity 0
  | none => chainIdentity 0

/-- One element to store: its element index, its value and the beat that writes it. -/
structure Due where
  e    : Nat
  x    : F32
  beat : Nat
  deriving DecidableEq, Repr

/-- What the store writes: one element per live element, or one per segment that ends within the step. -/
def chainDue (v : ChainEnv) (c : ChainIn) (segs : List (Nat × Nat)) (xs : List F32) : List Due :=
  let src := (c.shape.storeStage.map Stage.x).getD 0
  if !c.shape.segmentStore then (List.zip (List.range v.live) xs).map fun p => ⟨c.d0 + p.1, p.2, p.1 / 64⟩
  else
    ((List.zip (List.range segs.length) segs).filter fun g =>
        !(c.shape.carryOut && g.2.2 == v.live && g.2.1 != g.2.2)).map fun g =>
      let (n, a, b) := g
      ⟨c.d0 + n, if a < b then xs.getD (b - 1) 0 else emptyValue v c.shape src (n == 0 && c.shape.carryIn), (b - 1) / 64⟩

/-! ### The step -/

/-- The segment lengths that first take effect in a beat, by number: those of the segments that start in it (07 R186, R200). -/
def beatLengths (segs : List (Nat × Nat)) (lengths b : Nat) : List Nat :=
  upTo lengths fun i => (segs.getD i (0, 0)).1 / 64 == b

/-- Reads of a beat (07 R186): the elements of A and B of its live lanes with their scales, or element 0 for a shape that only
broadcasts it. -/
def beatReads (c : ChainIn) (live b : Nat) (segs : List (Nat × Nat)) (lengths : Nat) : List Acc :=
  let lo := 64 * b
  let n := min 64 (live - lo)
  let stream := fun (src : Nat) (o : Operand) (e0 : Nat) =>
    if !c.shape.names src || n = 0 then []
    else if c.shape.passes src then operandReads o (elemsAt o (e0 + lo) n)
    else if b = 0 then operandReads o (elemsAt o e0 1) else []
  let seg := if c.shape.bRole = 2 then readsOf c.b.d (elemsAt c.b (c.b0 + lo / 8) (ceilDiv n 8)) true false
    else if c.shape.bRole = 3 then readsOf c.b.d ((beatLengths segs lengths b).map fun i => c.b.at (c.b0 + i)) true false else []
  seg ++ stream 8 c.a c.a0 ++ (if c.shape.bRole = 0 then stream 9 c.b c.b0 else [])

/-- The scales and conversions of what is due in a step. -/
def chainDone (s : State) (e : Env) (t : Dest) (delayed : Option (BitVec 16)) (due : List Due) : List (Due × Done) :=
  let vals := due.map fun u => (t.o.at u.e, u.x)
  let scales := stepScales e t delayed vals
  due.map fun u =>
    let p := t.o.at u.e
    let (sc, z, bad) := scaleFor s (some e.quarter) t scales p
    (u, convertDone t bad sc z p u.x)

/-- Under MODE 2 a group's elements leave together, with its last one (07 R203). -/
def groupBeats (t : Dest) (due : List Due) : List Due :=
  if (t.o.rec_.map StatRec.mode).getD 0 ≠ 2 then due
  else due.map fun u =>
    let g := t.o.sg.groupIndex t.o.d (t.o.at u.e)
    { u with beat := (due.filter fun w => t.o.sg.groupIndex t.o.d (t.o.at w.e) == g).foldl (fun m w => max m w.beat) u.beat }

/-- The writes of a beat: elements, then the scales of the groups that it is the first to write. -/
def beatWrites (e : Env) (t : Dest) (delayed : Option (BitVec 16)) (all : List Due) (done : List (Due × Done)) (b : Nat) : List Acc :=
  let mine := (done.filter fun p => p.1.beat == b).map (·.2)
  let scales := stepScales e t delayed (all.map fun u => (t.o.at u.e, u.x))
  let before := done.filter fun p => p.1.beat < b
  let gs := (mine.map (·.g)).eraseDups.filter fun g => before.all fun p => p.2.g != g
  writesOf t.o.d (mine.map fun r => (r.pos, r.c.code))
    ++ scaleWrites t ((scales.filter fun g => gs.contains g.1).map fun g => (g.1, g.2.1)) true

/-- A chain's beats in progress. -/
structure Beating where
  r    : Running
  upto : Nat
  deriving DecidableEq, Repr

/-- One beat: its reads, then its writes; none after a read that failed. -/
def runBeat (e : Env) (reads writes : Nat → List Acc) (z : Beating) (b : Nat) : Beating :=
  let r := (reads b ++ writes b).foldl (runAcc e) z.r
  ⟨r, if r.stop = .ok then b + 1 else z.upto⟩

/-- The context value of CTX_SEL (07 R181, R183). -/
def chainCtxVal (s : State) (e : Env) (sel : Nat) : F32 :=
  let x := ctxOf s e.tile e.ctx
  f32OfInt (if sel < 4 then (SMap.get 0 x.loopCur sel).toNat else ((e.item.map itemArg).getD 0).toNat)

/-- The stages' surroundings. -/
def chainEnv (s : State) (e : Env) (c : ChainIn) (live : Nat) (segs : List (Nat × Nat)) : ChainEnv :=
  let blk := (c.block.map fun slot => leNat (slotBytes s e slot)).getD 0
  let vals := fun (used : Bool) (o : Operand) (e0 : Nat) =>
    if used then (List.range live).map fun j => elemValue s (some e.quarter) o (o.at (e0 + j)) else []
  { live := live, va := vals c.shape.usesA c.a c.a0, vb := vals (c.shape.bRole == 0 && c.shape.usesB) c.b c.b0
    scal := fun k => BitVec.ofNat 32 (bits blk (32 * k + 31) (32 * k)), ctxVal := chainCtxVal s e c.shape.ctxSel
    starts := segStarts segs c.shape.carryIn
    mode := fun j => if c.shape.usesD then (Dest.mode ⟨c.d, keyOf s e⟩ (c.d0 + j)) else .nearest }

/-- Everything that a step which passes its checks computes. -/
structure ChainWork where
  c     : ChainIn
  live  : Nat
  segs  : List (Nat × Nat)
  nlen  : Nat
  neg   : Bool
  run   : ChainRun
  /-- What the store may write, and whether something lies beyond D. -/
  due   : List Due
  above  : Bool
  key   : Nat
  deriving DecidableEq, Repr

def chainWork (s : State) (e : Env) : ChainWork :=
  let c := chainIn s e
  let live := liveCount s e.quarter c
  let (segs, nlen, neg) := chainSegs s e.quarter c
  let v := chainEnv s e c live segs
  let r := c.shape.stages.foldl (runStage v) ⟨[], false, false, []⟩
  let due := if c.shape.usesD then chainDue v c segs (r.outs.getLastD []) else []
  let reaches := fun (u : Due) =>
    u.e < c.d0 + c.count || (u.e < c.d.d.total && (elemRuns c.d.d [c.d.at u.e]).all (fun r => r.1 < windowBase) &&
      Status.lowest (destConds s e false c.d [c.d.at u.e]) == .ok)
  ⟨c, live, segs, nlen, neg, r, due.filter reaches, due.any fun u => !reaches u, keyOf s e⟩

/-- The read of the live count at issue (07 R186, R188). -/
def countReads (c : ChainIn) : List Acc := if c.shape.bRole = 1 then readsOf c.b.d [c.b.at c.b0] true false else []

/-- A step that passed its checks, run (07 R179, R186 to R205). -/
def runChain (s0 s : State) (e : Env) : StepEnd :=
  let k := chainWork s0 e
  let c := k.c
  let t : Dest := ⟨c.d, k.key⟩
  let (s, lst) := runAccs s e (countReads c)
  if lst ≠ .ok then .done s lst [] else
  let (s, asked, st0) := askScales s e (if c.shape.usesD then [t] else [])
  let delayed := asked.headD none
  if st0 = .uncorrectable then .done s st0 [] else
  let due := if c.shape.usesD then groupBeats t k.due else []
  let done := chainDone s e t delayed due
  let beats := ceilDiv c.count 64
  let z := (List.range beats).foldl
    (runBeat e (fun b => beatReads c k.live b k.segs k.nlen ++ (if c.shape.usesD then
        storedReads c.d ((done.filter fun p => p.1.beat == b).map (·.2.pos)) else []))
      (fun b => if c.shape.usesD then beatWrites e t delayed due done b else []))
    ⟨⟨s, false, .ok, 0⟩, 0⟩
  let (s, wst) := closeAccs e z.r
  let written := (done.filter fun p => p.1.beat < z.upto).map (·.2)
  let (s, sst) := if c.shape.usesD then putStatistics s e t written 0 0 else (s, .ok)
  if z.r.stop ≠ .ok then .done s z.r.stop []
  else
    let (s, bst) := runAccs s e (match c.block with
      | some slot => k.run.scals.map fun kv => writeAcc (padAddr e.tile (32 * slot) + 4 * kv.1) (leBytes 4 kv.2.toNat)
      | none => [])
    let events := k.run.nonfin || written.any (·.c.event) || k.run.scals.any fun kv => !f32Finite kv.2
    .done s (Status.lowest [(wst != .ok, wst), (bst != .ok, bst), (sst != .ok, sst), (st0 != .ok, st0), (k.neg || k.above, .range)])
      [(flagCmp, k.run.cmp), (flagNonfinite, events)]

/-- The slots that a CHAIN step reads at issue. -/
def chainSlots (s : State) (e : Env) : List Nat :=
  issueSlots s e [stepA e.word, stepB e.word] [stepD e.word] (((chainIn s e).block.map fun b => [b]).getD [])

/-- The runs that may cross the ring. -/
def chainFar (e : Env) (c : ChainIn) : List (Nat × Nat) :=
  if !c.shape.usesD then [] else
    let ps := elemsAt c.d c.d0 c.count
    c.runsD ++ scaleRuns c.d ps ++ statRuns false c.d (recipeOf e.fd c.d.d.kind).history (ps.map (c.d.sg.groupIndex c.d.d)) (ps.map c.d.d.index)

/-- CHAIN RUN (07 R180 to R206). -/
def doChain (s : State) (e : Env) : StepEnd :=
  let slots := chainSlots s e
  let s := readKey (readSlots s e slots) e
  let st := Status.lowest (chainConds s e)
  let c := chainIn s e
  if st ≠ .ok then
    refuseStep s e st (if e.fd.shapes.length ≤ bits (stepHi e.word) 5 0 ∨ (chainForms s e c).any (·.1) then [] else chainTouches e c)
  else if runsCut s e (chainFar e c) then .block (latch s e slots)
  else runChain s s e

/-- CHAIN RUN, and the reserved CHAIN operations (log 1). -/
def execChainRun (tile ctx : Nat) (s : State) : Host.Outcome State Fault Refusal :=
  .next (runStep s tile ctx 0x05 (fun _ => true) doChain)

end Sys2Proof.Machine
end

