-- ==== Sys2Proof/Machine/Wire.lean ====
section
/-! DEFINITION. Sending on a Filub port: flits (10 R265, R266), credits (R267), the replay window (R269), discarding (R271) and
the fault records of links (15 R398 class 0x0C). -/
namespace Sys2Proof.Machine

/-- Whether processor p runs (14 R376): 0 management, 1 to 4 the quarters' controllers, 5 to 8 the link controllers. -/
def processorRuns (s : State) (p : Nat) : Bool := !SMap.get false s.mgmt.restarting p
/-- Whether the link controller of a quarter runs. -/
def linkRuns (s : State) (q : Nat) : Bool := processorRuns s (5 + q)
/-- The quarter of a processor 1 to 8; the others are in quarter 0. -/
def processorQuarter (p : Nat) : Nat := if 1 ≤ p ∧ p ≤ 8 then (p - 1) % 4 else 0

def portOf (s : State) (k : Nat) : Port := SMap.get {} s.ports.ports k
def setPort (s : State) (k : Nat) (p : Port) : State :=
  { s with ports := { s.ports with ports := SMap.set {} s.ports.ports k p } }

/-- Counter i of a port, wrapping (10 R280): 0 flits sent, 1 received, 2 replays, 5 REFUSE sent, 6 received, 7 width changes. -/
def Port.count (p : Port) (i n : Nat) : Port := { p with counters := SMap.modify 0 p.counters i (wrapAdd 64 · n) }
def bumpPort (s : State) (k i : Nat) : State := setPort s k ((portOf s k).count i 1)

/-- Flit types (10 R266). -/
def flitIdle : Nat := 0
def flitWrite : Nat := 1
def flitSignal : Nat := 2
def flitRefuse : Nat := 3
def flitAbandon : Nat := 4
def flitNak : Nat := 5
def flitIdent : Nat := 6

/-- A flit to be sent; its sequence and credit fields are filled in as it leaves. -/
def mkFlit (type lane addr len tag : Nat) (last : Bool) (payload : List Byte) : Flit :=
  ⟨type, lane, 0, 0, 0, 0, addr, len, tag, last, payload⟩

/-- A flit that needs a credit of its lane (10 R267). -/
def flitCredited (f : Flit) : Bool := f.type == flitWrite || f.type == flitSignal
/-- A link-layer flit, which carries no sequence number (10 R266). -/
def flitLink (f : Flit) : Bool := f.lane == 31

/-- Credits that a lane's buffer advertises: its flits, cut to what IDENT's field holds (10 R266, R267; log 16). -/
def advertised : Nat := 63
/-- The most flits held unacknowledged (10 R269). -/
def replayWindow : Nat := 2048

/-- The lowest lane with credits to return, and how many one flit returns. -/
def Port.toReturn (p : Port) : Nat × Nat :=
  match p.taken.find? (·.2 != 0) with
  | some (l, n) => (l, min 63 n)
  | none => (0, 0)

/-- The module that carries the next flit: those in service in turn, in increasing number (10 R271). -/
def Port.nextModule (p : Port) : Nat :=
  let on := upTo 10 fun m => bit p.modules.toNat m
  ((on.find? fun m => decide (p.deal ≤ m)).or on.head?).getD 0

/-- A flit leaves: its header is completed, the next module carries it, and it is held for replay when it carries a sequence
number. -/
def launch (s : State) (k : Nat) (f : Flit) : State :=
  let p := portOf s k
  let (lane, n) := p.toReturn
  let f := { f with seq := if flitLink f then 0 else p.txSeq, ackSeq := p.rxSeq, creditLane := lane, creditCount := n }
  let m := p.nextModule
  let p := { p with deal := m + 1, taken := if n = 0 then p.taken else SMap.modify 0 p.taken lane (· - n) }
  let p := if flitLink f then p
    else { p with txSeq := (p.txSeq + 1) % 4096, held := p.held ++ [f], carrier := SMap.set 0 p.carrier f.seq m }
  { setPort s k (p.count 0 1) with out := .flit k f :: s.out }

/-- Whether a flit may leave now: room in the window, and a credit when it needs one. -/
def Port.canLaunch (p : Port) (f : Flit) : Bool :=
  flitLink f || (p.held.length < replayWindow && (!flitCredited f || 0 < SMap.get 0 p.credits f.lane))

/-- A flit sent on a port in service: now, or when a credit or the window lets it (10 R267, R269). On a port that is not up it
is lost. -/
def sendFlit (s : State) (k : Nat) (f : Flit) : State :=
  let p := portOf s k
  if p.state ≠ .up then s
  else if p.canLaunch f && !(flitCredited f && p.waiting.any fun w => w.lane == f.lane) then
    let s := if flitCredited f then setPort s k { p with credits := SMap.modify 0 p.credits f.lane (· - 1) } else s
    launch s k f
  else setPort s k { p with waiting := p.waiting ++ [f] }

/-- Waiting flits sent as far as credits and the window allow, each lane in order. -/
def pumpPort (s : State) (k : Nat) : State :=
  let w := (portOf s k).waiting
  let s := setPort s k { portOf s k with waiting := [] }
  w.foldl (fun s f => sendFlit s k f) s

/-- Flits sent again from a sequence number on (10 R269). -/
def resendFrom (s : State) (k seq : Nat) : State :=
  let p := portOf s k
  let again := p.held.dropWhile fun f => f.seq != seq
  let s := setPort s k ((p.count 2 1).count 0 again.length)
  { s with out := (again.map fun f => Out.flit k { f with ackSeq := p.rxSeq }).reverse ++ s.out }

/-- The flits held that a module carried, sent again on those left, in SEQ order (10 R271). -/
def resendCarried (s : State) (k m : Nat) : State :=
  let p := portOf s k
  (p.held.filter fun f => SMap.get 0 p.carrier f.seq == m).foldl (fun s f =>
    let p := portOf s k
    let taker := p.nextModule
    let s := setPort s k (({ p with deal := taker + 1, carrier := SMap.set 0 p.carrier f.seq taker }.count 2 1).count 0 1)
    { s with out := .flit k { f with ackSeq := p.rxSeq } :: s.out }) s

/-- The record of a link fault about a port: its new module mask, old and new width (15 R398). -/
def linkFault (s : State) (k : Nat) (status : Status) (oldWidth : Nat) : State :=
  let p := portOf s k
  let w := (upTo 10 fun m => bit p.modules.toNat m).length
  let s := setPort s k { p with lastStatus := status }
  logFault s { mkFault s 0x0C status (portQuarter k) with
    unitClass := 9, unitIndex := k, detail := BitVec.ofNat 512 (p.modules.toNat + (oldWidth + 256 * w) <<< 32) }

def portWidth (p : Port) : Nat := (upTo 10 fun m => bit p.modules.toNat m).length

/-- The port's modules in service retrain, keeping every flit held (10 R269). They train again (log 16), and what is held is
resent. -/
def retrainPort (s : State) (k : Nat) : State :=
  let p := portOf s k
  let s := setPort s k { p with retrains := satAdd 16 p.retrains 1, replays := 0, nakSent := false }
  match p.held with
  | [] => s
  | f :: _ => resendFrom s k f.seq

/-- A protocol error: the port retrains and a record is written (10 R267; 11 R308). -/
def protocolError (s : State) (k : Nat) : State := linkFault (retrainPort s k) k .ok (portWidth (portOf s k))

/-- What a port discards when it goes down (10 R271). -/
def Port.discard (p : Port) : Port :=
  { p.count 2 (p.held.length) with
    held := [], waiting := [], credits := [], taken := [], rx := [], txSeq := 0, rxSeq := 0, nakSent := false, replays := 0
    refusals := 0, late := none, deal := 0, carrier := [] }

/-- Credits at the start, and sequence numbers from 0 (10 R267, R271). -/
def fullCredits (coll ctrl : Nat) : SMap Nat :=
  (List.range 18).filterMap fun l => if (if l < 16 then coll else ctrl) = 0 then none else some (l, if l < 16 then coll else ctrl)

/-- The identity that IDENT carries in word 1 (10 R266). -/
def identPayload (s : State) (k : Nat) : List Byte :=
  leBytes 16 (pack [(0, s.mgmt.fuses.serial.toNat), (64, k), (67, (portOf s k).modules.toNat), (77, advertised), (83, advertised)])

/-- Whether all four REFUSE slots are in use, as they are while four REFUSE flits are unacknowledged (10 R267; log 16). -/
def Port.refuseFull (p : Port) : Bool := decide (4 ≤ ((p.held ++ p.waiting).filter fun h => h.type == flitRefuse).length)

/-- A REFUSE flit about a flit, with the further refusals coalesced into it (10 R266). -/
def refuseFlitOf (f : Flit) (st : Status) (more : Nat) : Flit :=
  mkFlit flitRefuse 16 0 16 0 false
    (leBytes 16 (pack [(0, st.code), (16, f.lane), (21, f.seq), (33, f.addr), (75, f.tag), (83, min 65535 more)]))

/-- A REFUSE of a flit: counted when all four slots are in use (10 R267). -/
def sendRefuse (s : State) (k : Nat) (f : Flit) (st : Status) : State :=
  let p := portOf s k
  if p.refuseFull then setPort s k { p with refusals := p.refusals + 1, late := some (f, st) }
  else sendFlit (setPort s k ({ p with refusals := 0, late := none }.count 5 1)) k (refuseFlitOf f st p.refusals)

/-- The refusals counted go out as one REFUSE, about the latest of them, when a slot is free (10 R267; log 16). -/
def sendLate (s : State) (k : Nat) : State :=
  let p := portOf s k
  match p.late with
  | some (f, st) => if p.refuseFull then s else sendRefuse (setPort s k { p with refusals := p.refusals - 1 }) k f st
  | none => s

/-- IDENT on every module in service (10 R272, R273). -/
def sendIdents (s : State) (k : Nat) : State :=
  (List.range (portWidth (portOf s k))).foldl (fun s _ => launch s k (mkFlit flitIdent 31 0 16 0 false (identPayload s k))) s

end Sys2Proof.Machine
end

