-- ==== Sys2Proof/Machine/Coll.lean ====
section
/-! DEFINITION. Collective groups: the COLL steps (11 R297 to R300), shards and chunks (R302 to R309), the reduction arithmetic
(R311 to R314), and what ends commands: completion (R300), timeouts (R317), cuts (R315) and abandonment (R294). -/
namespace Sys2Proof.Machine

def groupOf (s : State) (n : Nat) : Option Group := SMap.get none s.colls n
def setGroup (s : State) (n : Nat) (g : Group) : State := { s with colls := SMap.set none s.colls n (some g) }

/-! ### Parameter blocks (11 R298) and command records -/

def paramReserved (p : Nat) : Bool :=
  bits p 191 176 != 0 || bits p 167 160 != 0 || bits p 151 150 != 0 || bits p 143 0 != 0
/-- A TIMEOUT of 0 means 2^32 ticks. -/
def CollCmd.timeout (c : CollCmd) : Nat := let t := bits c.params.toNat 255 224; if t = 0 then 2 ^ 32 else t
def CollCmd.doneWord (c : CollCmd) : Nat := bits c.params.toNat 223 212
def CollCmd.doneQuarter (c : CollCmd) : Nat := bits c.params.toNat 211 210
def CollCmd.doneEn (c : CollCmd) : Bool := bit c.params.toNat 209
def CollCmd.waitReady (c : CollCmd) : Bool := bit c.params.toNat 208
def CollCmd.sumsqSlot (c : CollCmd) : Nat := bits c.params.toNat 207 192
def CollCmd.cribOffset (c : CollCmd) : Nat := bits c.params.toNat 175 168
def CollCmd.chunkBytes (c : CollCmd) : Nat := 65536 * (bits c.params.toNat 159 156 + 1)
def CollCmd.nscal (c : CollCmd) : Nat := bits c.params.toNat 155 154 + 1
def CollCmd.split (c : CollCmd) : Bool := bit c.params.toNat 153
def CollCmd.nfIn (c : CollCmd) : Bool := bit c.params.toNat 152
/-- The wire format; none for a code that is refused. -/
def CollCmd.wire? (c : CollCmd) : Option Fmt :=
  match Fmt.ofCode (bits c.params.toNat 149 144) with
  | some .bf16 => some .bf16 | some .e4m3 => some .e4m3 | some .e5m2 => some .e5m2 | _ => none
def CollCmd.wire (c : CollCmd) : Fmt := c.wire?.getD .bf16

/-- The operation of a step, and its code. -/
def CollOp.code : CollOp → Nat
  | .allreduce => 1 | .reduceScatter => 2 | .allGather => 3 | .scalarAllreduce => 4 | .barrier => 5 | .signalPeer => 6
/-- The operations that move tensors. -/
def CollOp.data (o : CollOp) : Bool := o == .allreduce || o == .reduceScatter || o == .allGather

/-- The operand of a command record. -/
def recordOperand (d sc : Option (BitVec 256)) : Operand :=
  ⟨Desc.parse (leBytes 32 (d.getD 0).toNat), (sc.map fun b => Scale.parse (leBytes 32 b.toNat)).getD .absent, none, .zero⟩
def CollCmd.a (c : CollCmd) : Operand := recordOperand c.descA c.scaleA
def CollCmd.d (c : CollCmd) : Operand := recordOperand c.descD c.scaleD
/-- The destination with its rounding. -/
def CollCmd.dest (c : CollCmd) : Dest := ⟨c.d, c.key⟩

/-- The form that copies bits (11 R311). -/
def CollCmd.bitCopy (c : CollCmd) : Bool :=
  c.op == .allGather && (c.a.d.fmt == .bf16 || c.a.d.fmt == .hi16) && c.a.sg.group == 0 && c.wire == .bf16
    && c.d.d.fmt == .bf16 && c.d.sg.group == 0

/-! ### Shards (11 R302) and crib geometry (11 R305) -/

def GroupRec.size (g : GroupRec) : Nat := g.members + 1
def GroupRec.crib (g : GroupRec) (i : Nat) : Nat := g.cribTiles.getD i 0
/-- The home quarter of a group's sequencer. -/
def GroupRec.home (g : GroupRec) : Nat := tileQuarter (g.crib 0)

/-- The length of shard q. -/
def shardLen (g : GroupRec) (c : CollCmd) (q : Nat) : Nat :=
  if c.split then c.length / g.size + (if q < c.length % g.size then 1 else 0) else g.lengths.getD q 0
/-- off_q. -/
def shardOff (g : GroupRec) (c : CollCmd) (q : Nat) : Nat := ((List.range q).map (shardLen g c)).sum

/-- Elements of a whole chunk. -/
def CollCmd.chunkElems (c : CollCmd) : Nat := c.chunkBytes / (c.wire.width / 8)
/-- Bytes of the wire image of n elements. -/
def CollCmd.imageBytes (c : CollCmd) (n : Nat) : Nat :=
  match c.op with
  | .scalarAllreduce => 16
  | .barrier => 0
  | _ => n * (c.wire.width / 8) + (if c.wire = .bf16 then 0 else 2 * ceilDiv n 128)
/-- Bytes of a slot. -/
def slotSize (g : GroupRec) (c : CollCmd) : Nat :=
  let w := c.chunkBytes + (if c.wire = .bf16 then 0 else c.chunkBytes / 64)
  256 + 256 * ceilDiv (w / 256) g.cribTiles.length
/-- The address of flit f of slot i, and of its header. -/
def cribAddr (g : GroupRec) (c : CollCmd) (i f : Nat) : Nat :=
  let n := g.cribTiles.length
  padAddr (g.crib (f % n)) (4096 * c.cribOffset + i * slotSize g c + 256 + 256 * (f / n))
def headerAddr (g : GroupRec) (c : CollCmd) (i : Nat) : Nat := padAddr (g.crib 0) (4096 * c.cribOffset + i * slotSize g c)

/-- One chunk of a schedule: phase, ring step, shard, chunk number, elements, first full-buffer index. -/
structure Piece where
  phase : Nat
  step  : Nat
  shard : Nat
  chunk : Nat
  n     : Nat
  first : Nat
  deriving DecidableEq, Repr

/-- The chunks of a shard. -/
def shardPieces (g : GroupRec) (c : CollCmd) (phase step q : Nat) : List Piece :=
  let len := shardLen g c q
  let z := c.chunkElems
  (List.range (max 1 (ceilDiv len z))).map fun i => ⟨phase, step, q, i, min z (len - i * z), shardOff g c q + i * z⟩

/-- The chunks that member k sends, in order (11 R303, R314). -/
def memberPlan (g : GroupRec) (c : CollCmd) (k : Nat) : List Piece :=
  let p := g.size
  if p = 1 then []
  else
    match c.op with
    | .signalPeer => []
    | .scalarAllreduce | .barrier =>
      (if k = 0 then [] else [⟨0, 0, 0, 0, 0, 0⟩]) ++ if k = 0 ∨ k + 1 < p then [⟨1, 0, 0, 0, 0, 0⟩] else []
    | op =>
      (if op = .allGather then [] else
        (List.range (p - 1)).flatMap fun st => shardPieces g c 0 st ((k + 2 * p - st - 1) % p))
      ++ (if op = .reduceScatter then [] else (List.range (p - 1)).flatMap fun st => shardPieces g c 1 st ((k + p - st) % p))

/-- The chunks that this member receives: those that the previous one sends. -/
def expectPlan (g : GroupRec) (c : CollCmd) : List Piece := memberPlan g c ((g.rank + g.members) % g.size)

/-! ### The group status in memory (11 R296) -/

def GroupState.code : GroupState → Nat
  | .ready => 0 | .running => 1 | .partitioned => 2 | .abandoned => 3

def groupBlock (g : Group) : Nat :=
  pack [(0, g.field), (8, g.desc.group), (16, g.state.code), (64, g.epoch.toNat), (80, g.lastStatus.code), (96, g.partitions),
    (128, g.nextOpSeq), (160, g.doneOpSeq), (192, g.chunksSent), (256, g.chunksRecv)]

/-- A group's registers changed, and its status written at its queue. -/
def putGroup (s : State) (n : Nat) (g : Group) : State :=
  (writeRun (setGroup s n g) .outside g.desc.queueBase (leBytes 256 (groupBlock g))).1

/-! ### Neighbours -/

/-- Whether a neighbour port is in order: up, with the expected peer (11 R315). -/
def neighbourOk (s : State) (port : Nat) (serial : BitVec 64) : Bool :=
  let p := portOf s port
  p.state == .up && p.modules != 0 && p.peerSerial == serial

/-- Whether the group is cut at this member (11 R315). -/
def groupCut (s : State) (g : Group) : Bool :=
  g.desc.size != 1 && !(neighbourOk s g.desc.nextPort g.desc.nextSerial && neighbourOk s g.desc.prevPort g.desc.prevSerial)

/-- The neighbour ports of a group, but for one. -/
def neighbourPorts (g : Group) (but : Option Nat) : List Nat :=
  if g.desc.size = 1 then [] else [g.desc.nextPort, g.desc.prevPort].eraseDups.filter fun p => but != some p

/-- A group control flit (11 R308). -/
def controlFlit (g : Group) (code count value : Nat) : Flit :=
  mkFlit flitSignal g.desc.lane 0 16 g.desc.group false (leBytes 16 (pack [(0, code), (8, count), (16, value)]))

def sendControl (s : State) (g : Group) (port code count value : Nat) : State := sendFlit s port (controlFlit g code count value)

/-- ABANDON to the neighbours, but for one (11 R294; 10 R266). -/
def sendAbandon (s : State) (g : Group) (but : Option Nat) : State :=
  (neighbourPorts g but).foldl (fun s p =>
    sendFlit s p (mkFlit flitAbandon g.desc.lane 0 16 g.desc.group false
      (leBytes 16 (pack [(0, Status.abandoned.code), (16, s.mgmt.fuses.serial.toNat)])))) s

/-- The record of a group (15 R398 class 0x11). -/
def groupFault (s : State) (g : Group) (st : Status) (serial : BitVec 64) : State :=
  logFault s { mkFault s 0x11 st g.desc.home with
    unitClass := 0x0C, unitIndex := g.desc.group, field := g.field, imageId := SMap.get 0 s.fields.imageIds g.field
    detail := BitVec.ofNat 512 (pack [(0, g.epoch.toNat), (16, serial.toNat)]) }

/-! ### The end of a command (11 R300; 03 R80) -/

/-- The step that sleeps on a command completes. -/
def wakeColl (s : State) (n : Nat) (c : CollCmd) (st : Status) (nonfinite : Bool) : State :=
  let x := ctxOf s c.tile c.ctx
  if x.state = .sleeping ∧ (x.waiting.map Waiting.cond) = some (.coll n) then
    match stepEntry s c.tile x.step with
    | some e =>
      endStep c.tile c.ctx e.word
        (.done (countSleep s c.tile c.ctx) st [(flagNonfinite, nonfinite), (flagAbandoned, st == .abandoned)])
    | none => s
  else s

/-- A command ends: DONE_OP_SEQ, then DONE_WORD, then the step. A signal write that would cross a split ring waits for its
links (01 R19). -/
def endCommand (s : State) (n : Nat) (c : CollCmd) (st : Status) (nonfinite : Bool) : State :=
  match groupOf s n with
  | some g =>
    let g := { g with doneOpSeq := c.opSeq, lastStatus := if st = .ok then g.lastStatus else st }
    let s := putGroup s n g
    let s := if c.doneEn then sendSignal s 0 g.desc.home c.doneQuarter c.doneWord 1 else s
    wakeColl s n c st nonfinite
  | none => s

/-- The command in flight taken off the sequencer, the group's state as given. -/
def dropRun (s : State) (n : Nat) (g : Group) (st : GroupState) : State :=
  putGroup s n { g with state := st, run := none, slotFlits := [] }

/-- Ends the command in flight and the queued commands that p picks, with a status. -/
def endCommands (s : State) (n : Nat) (st : Status) (p : CollCmd → Bool) : State :=
  match groupOf s n with
  | some g =>
    let gone := g.queue.filter p
    let s := putGroup s n { g with run := none, slotFlits := [], queue := g.queue.filter fun c => !p c }
    let s := match g.run with
      | some r => endCommand s n r.cmd st r.nonfinite
      | none => s
    gone.foldl (fun s c => endCommand s n c st false) s
  | none => s

/-- Flits of a group that wait in a lane's receive buffer are discarded with its cribs; their slots are free. -/
def dropWaiting (s : State) (g : Group) : State :=
  (neighbourPorts g none).foldl (fun s k =>
    let p := portOf s k
    let l := SMap.get [] p.rx g.desc.lane
    let keep := l.filter fun f => f.tag != g.desc.group
    setPort s k { p with rx := SMap.set [] p.rx g.desc.lane keep
                         taken := SMap.modify 0 p.taken g.desc.lane (· + (l.length - keep.length)) }) s

/-- A group abandoned by this member (11 R294, R300, R301, R309, R317): its commands end with E_ABANDONED, and its neighbours are
told. -/
def abandonGroup (s : State) (n : Nat) (from_ : Option Nat) : State :=
  match groupOf s n with
  | some g =>
    if g.state = .abandoned then s
    else
      let s := putGroup s n { g with state := .abandoned }
      let s := endCommands s n .abandoned fun _ => true
      let s := sendAbandon (dropWaiting s g) g from_
      match groupOf s n with
      | some g => groupFault s g .abandoned g.desc.nextSerial
      | none => s
  | none => s

/-- The command in flight ends with a status, and the group is abandoned. -/
def failRun (s : State) (n : Nat) (st : Status) : State :=
  match groupOf s n with
  | some g =>
    match g.run with
    | some r => abandonGroup (endCommand (dropRun s n g .ready) n r.cmd st r.nonfinite) n none
    | none => abandonGroup s n none
  | none => s

/-! ### Partition (11 R315) -/

/-- The member enters the partitioned state at an epoch, and sends notices but to one port. -/
def partitionGroup (s : State) (n : Nat) (epoch : BitVec 16) (from_ : Option Nat) : State :=
  match groupOf s n with
  | some g =>
    if g.state = .abandoned then s
    else
      let entering := g.state ≠ .partitioned
      let g := { g with state := .partitioned, epoch := epoch, checkSent := false, nextChecked := false, prevChecked := false
                        partitions := if entering then satAdd 32 g.partitions 1 else g.partitions }
      let s := dropWaiting (putGroup s n g) g
      let s := endCommands s n .partition fun c => !c.waitReady
      let s := (neighbourPorts g from_).foldl (fun s p => sendControl s g p 2 0 epoch.toNat) s
      if entering then groupFault s g .partition g.desc.nextSerial else s
  | none => s

/-- The groups on a port meet a change of its state: those newly cut are partitioned (11 R315); a partitioned member whose port
came back sends a notice on it (11 R316). `before` says which groups were cut. -/
def groupsOnPort (s : State) (before : List Nat) (port : Nat) : State :=
  (SMap.keys s.colls).foldl (fun s n =>
    match groupOf s n with
    | some g =>
      if !((neighbourPorts g none).contains port) then s
      else if groupCut s g && !before.contains n then partitionGroup s n (g.epoch + 1) none
      else if g.state = .partitioned ∧ (portOf s port).state = .up then
        let serial := if port = g.desc.nextPort then g.desc.nextSerial else g.desc.prevSerial
        if neighbourOk s port serial then sendControl s g port 2 0 g.epoch.toNat else s
      else s
    | none => s) s

/-- The groups that are cut now. -/
def cutGroups (s : State) : List Nat :=
  (SMap.keys s.colls).filter fun n => ((groupOf s n).map (groupCut s)).getD false

/-! ### The issue of a COLL step (11 R297 to R300) -/

/-- The operation of an OP code. -/
def collOpOf : Nat → Option CollOp
  | 1 => some .allreduce | 2 => some .reduceScatter | 3 => some .allGather | 4 => some .scalarAllreduce | 5 => some .barrier
  | 6 => some .signalPeer | _ => none

/-- The 32 bytes of a slot as a word. -/
def slotWord (s : State) (e : Env) (slot : Nat) : BitVec 256 := BitVec.ofNat 256 (leNat (slotBytes s e slot))

/-- The command record that a step makes. -/
def collRecord (s : State) (e : Env) (op : CollOp) (g : Group) : CollCmd :=
  let w := e.word
  let da := Desc.parse (slotBytes s e (stepA w))
  let dd := Desc.parse (slotBytes s e (stepD w))
  let scale := fun (d : Desc) => if d.scaleSlot = 0xFFFF then none else some (slotWord s e d.scaleSlot)
  { op := op, tile := e.tile, ctx := e.ctx, opSeq := g.nextOpSeq, length := stepLo w
    descA := if op.data then some (slotWord s e (stepA w)) else none, scaleA := if op.data then scale da else none
    descD := if op.data then some (slotWord s e (stepD w)) else none, scaleD := if op.data then scale dd else none
    params := slotWord s e (stepB w)
    scalars := if op = .scalarAllreduce then
        (List.range (bits (slotWord s e (stepB w)).toNat 155 154 + 1)).map fun k =>
          BitVec.ofNat 32 (bits (slotWord s e (stepA w)).toNat (32 * k + 31) (32 * k))
      else []
    slotD := stepD w, key := ((e.held keyIndex).map BitVec.toNat).getD (roundingKey s e.fd (g.desc.crib 0)), start := s.power.sclk, imm := stepLo w }

/-- Formats of A and D (11 R299). -/
def collA (f : Fmt) : Bool := f == .bf16 || f == .fp16 || f == .hi16 || f == .e4m3 || f == .e5m2
def collD (f : Fmt) : Bool := f == .bf16 || f == .fp16 || f == .e4m3 || f == .e5m2

/-- The elements of A and of D that a command addresses. -/
def CollCmd.countA (g : GroupRec) (c : CollCmd) : Nat := if c.op = .allGather then shardLen g c g.rank else c.length
def CollCmd.countD (g : GroupRec) (c : CollCmd) : Nat := if c.op = .reduceScatter then shardLen g c g.rank else c.length

/-- D's scale setting (11 R311). -/
def collScaleOk (g : GroupRec) (c : CollCmd) : Bool :=
  if c.d.d.fmt == .bf16 || c.d.d.fmt == .fp16 then c.d.sg.group == 0
  else c.d.d.fmt == c.wire && c.d.sg.group == 4 && c.d.sg.axis == 0
    && (c.op == .reduceScatter || (List.range g.size).all fun q => shardOff g c q % 128 == 0)

/-- The crib area of a command on a tile offset range. -/
def CollCmd.area (g : GroupRec) (c : CollCmd) : Nat × Nat := (4096 * c.cribOffset, 4096 * c.cribOffset + 8 * slotSize g c)

/-- Whether the crib area lies in the field's banks on every crib tile and clear of other groups' areas (11 R299, R305). -/
def cribOk (s : State) (f n : Nat) (g : GroupRec) (c : CollCmd) : Bool :=
  let (lo, hi) := c.area g
  let clash := fun t => (SMap.keys s.colls).any fun m =>
    m != n && match groupOf s m with
      | some o => o.desc.cribTiles.contains t &&
          (((o.run.map fun r => [r.cmd]).getD [] ++ o.queue).filter fun k => k.op != .signalPeer).any fun k =>
            let (l, h) := k.area o.desc
            lo < h && l < hi
      | none => false
  hi ≤ 0x100000 && g.cribTiles.all fun t => runOwned s f (padAddr t lo) (hi - lo) && !clash t

/-- Conditions on the forms of a data command's tensors (11 R299). -/
def collForms (s : State) (e : Env) (g : GroupRec) (c : CollCmd) : List (Bool × Status) :=
  let w := e.word
  let first := operandConds s e (stepA w) .zero collA false ++ operandConds s e (stepD w) .zero collD false
  if first.any (·.1) || c.wire?.isNone then first
  else
    let lens := (List.range g.size).map (shardLen g c)
    [ (!c.split && (g.lengths.length != g.size || lens.sum != c.length), .range), (!collScaleOk g c, .range),
      (c.d.d.layout == 2, .range), (c.a.d.total < c.countA g || c.d.d.total < c.countD g, .range) ]

/-- What a data command's tensors touch, when their forms pass. -/
def collTouches (s : State) (e : Env) (g : GroupRec) (c : CollCmd) : List (Bool × List (Nat × Nat)) :=
  let pa := elemsAt c.a 0 (c.countA g)
  let pd := elemsAt c.d 0 (c.countD g)
  if (collForms s e g c).any (·.1) then []
  else [(false, elemRuns c.a.d pa), (false, scaleRuns c.a pa), (true, elemRuns c.d.d pd), (true, scaleRuns c.d pd)]

/-- Conditions on the tensors of a data command (11 R299). -/
def collTensors (s : State) (e : Env) (g : GroupRec) (c : CollCmd) : List (Bool × Status) :=
  let first := collForms s e g c
  if first.any (·.1) then first
  else
    let pa := elemsAt c.a 0 (c.countA g)
    let pd := elemsAt c.d 0 (c.countD g)
    [ (runsOverlap (elemRuns c.a.d pa) (elemRuns c.d.d pd) || (elemRuns c.d.d pd).any (fun r => windowBase ≤ r.1), .range),
      (c.op != .allGather && c.sumsqSlot != 0xFFFF && (0x8000 ≤ c.sumsqSlot || !runOwned s e.field (padAddr e.tile (32 * c.sumsqSlot)) 32), .range),
      (kindStochastic c.d.d.kind && !c.bitCopy && bits c.key 127 64 != 0, .reserved) ]
      ++ runConds s e false (elemRuns c.a.d pa) ++ runConds s e false (scaleRuns c.a pa)
      ++ runConds s e true (elemRuns c.d.d pd) ++ runConds s e true (scaleRuns c.d pd)

/-- The conditions of 11 R299 that the step word and the parameter block give. -/
def paramConds (s : State) (e : Env) (op : CollOp) (c : CollCmd) : List (Bool × Status) :=
  [ (paramReserved c.params.toNat, .reserved), (c.wire?.isNone, .range),
    (c.wire != .bf16 && !bit s.mgmt.capWord.toNat 24, .capability),
    (c.doneEn && (attrOf s c.doneQuarter c.doneWord).field != e.field, .range),
    (op == .scalarAllreduce && stepA e.word == stepD e.word, .range) ]

/-- The conditions of 11 R299 on a step whose group is not in its field: those on its descriptors alone. -/
def strayConds (s : State) (e : Env) (op : CollOp) : List (Bool × Status) :=
  if op.data then operandConds s e (stepA e.word) .zero collA false ++ operandConds s e (stepD e.word) .zero collD false
  else []

/-- The conditions of 11 R299. -/
def collConds (s : State) (e : Env) (op : CollOp) : List (Bool × Status) :=
  let w := e.word
  let n := bits (stepHi w) 4 0
  let pslot := slotConds s e (stepB w)
  let form : List (Bool × Status) :=
    [ (bits (stepHi w) 13 5 != 0 || stepUnit w != 0 || ((op == .scalarAllreduce || op == .barrier) && stepLo w != 0)
        || (op == .signalPeer && bit (stepLo w) 30)
        || ((op == .barrier || op == .signalPeer) && (stepA w != 0xFFFF || stepD w != 0xFFFF)), .reserved) ]
    ++ pslot ++ (if op = .scalarAllreduce then slotConds s e (stepA w) ++ slotConds s e (stepD w) else [])
  match (groupOf s n).filter fun g => g.field == e.field with
  | some g =>
    let c := collRecord s e op g
    let waits := !pslot.any (·.1) && c.waitReady
    let params : List (Bool × Status) :=
      if pslot.any (·.1) then strayConds s e op
      else paramConds s e op c ++ (if op.data then collTensors s e g.desc c else [])
        ++ [(op != .signalPeer && c.wire?.isSome && !cribOk s e.field n g.desc c, .range)]
    form ++ params ++ [(g.state == .abandoned, .abandoned), (g.state == .partitioned && !waits, .partition)]
  | none =>
    let blank := pslot.any (·.1)
    form ++ (if blank then [] else [(paramReserved (slotWord s e (stepB w)).toNat, .reserved)]) ++ strayConds s e op ++ [(true, .range)]

/-- Flags of a COLL step that ends at issue: no chunk was sent or received, so NONFINITE is 0 (11 R312), and ABANDONED follows
the status (03 R80). -/
def collFlags (st : Status) : List (Nat × Bool) := [(flagNonfinite, false), (flagAbandoned, st == .abandoned)]

/-- The slots that a COLL step reads. -/
def collSlots (s : State) (e : Env) (op : CollOp) : List Nat :=
  let w := e.word
  issueSlots s e (if op.data then [stepA w, stepD w] else []) [] (stepB w :: if op = .scalarAllreduce then [stepA w] else [])

/-- A COLL step: checked, queued, and asleep (11 R299, R300). What it read when it issued it keeps while the queue is full. -/
def doColl (op : CollOp) (s : State) (e : Env) : StepEnd :=
  let w := e.word
  let n := bits (stepHi w) 4 0
  let slots := collSlots s e op
  let s := readSlots s e slots
  let st := Status.lowest (collConds s e op)
  match groupOf s n with
  | some g =>
    if st ≠ .ok then
      let touches := if op.data ∧ g.field = e.field ∧ !(slotConds s e (stepB w)).any (·.1)
        then collTouches s e g.desc (collRecord s e op g) else []
      .done (recordRefused s e st touches) st (collFlags st)
    else if 255 ≤ g.queue.length + b2n g.run.isSome ∨ !ringReaches s e.quarter g.desc.home then
      .block (latch s e slots (roundingKey s e.fd (g.desc.crib 0)))
    else
      let c := collRecord s e op g
      let s := putGroup s n { g with queue := g.queue ++ [c], nextOpSeq := (g.nextOpSeq + 1) % 2 ^ 32 }
      .sleep s ⟨.coll n, 0, s.power.sclk, c.timeout⟩
  | none => .done s st (collFlags st)

/-- ALLREDUCE (11 R303), and the reserved COLL operations (log 1). -/
def doAllreduce (s : State) (e : Env) : StepEnd :=
  if stepOp e.word = 1 then doColl .allreduce s e else .done s .reserved (collFlags .reserved)

def execAllreduce (tile ctx : Nat) (s : State) : Host.Outcome State Fault Refusal :=
  .next (runStep s tile ctx 0x09 (fun op => op == 1 || op == 0 || 7 ≤ op) doAllreduce)
/-- REDUCE_SCATTER (11 R303). -/
def execReduceScatter (tile ctx : Nat) (s : State) : Host.Outcome State Fault Refusal :=
  .next (runStep s tile ctx 0x09 (· == 2) (doColl .reduceScatter))
/-- ALL_GATHER (11 R303). -/
def execAllGather (tile ctx : Nat) (s : State) : Host.Outcome State Fault Refusal :=
  .next (runStep s tile ctx 0x09 (· == 3) (doColl .allGather))
/-- SCALAR_ALLREDUCE (11 R314). -/
def execScalarAllreduce (tile ctx : Nat) (s : State) : Host.Outcome State Fault Refusal :=
  .next (runStep s tile ctx 0x09 (· == 4) (doColl .scalarAllreduce))
/-- BARRIER (11 R314). -/
def execBarrier (tile ctx : Nat) (s : State) : Host.Outcome State Fault Refusal :=
  .next (runStep s tile ctx 0x09 (· == 5) (doColl .barrier))
/-- SIGNAL_PEER (11 R300). -/
def execSignalPeer (tile ctx : Nat) (s : State) : Host.Outcome State Fault Refusal :=
  .next (runStep s tile ctx 0x09 (· == 6) (doColl .signalPeer))

/-! ### The wire conversion (11 R311) -/

/-- What a chunk's elements are on the wire: codes and, for FP8, the BF16 scales of groups of 128. -/
structure WireVals where
  codes  : List Nat
  scales : List (BitVec 16)
  deriving DecidableEq, Repr

/-- One group of 128 elements on an FP8 wire; `e0` is the full-buffer index of its first. -/
def wireGroup (fd : Field) (c : CollCmd) (e0 : Nat) (xs : List F32) : List Nat × BitVec 16 :=
  let f := c.wire
  let mode := fun e => c.dest.mode e
  if xs.any fun x => !f32Finite x then (xs.map fun _ => 0, 0x7FC0)
  else
    let b := computedScale f (recipeOf fd c.d.d.kind) (xs.foldl (fun a x => fmax a (fabs x)) 0)
    ((List.zip (List.range xs.length) xs).map fun p => (f.convert (mode (e0 + p.1)) p.2 (f32OfBf16 b) 0).code, b)

/-- wire() of a chunk. -/
def toWire (fd : Field) (c : CollCmd) (e0 : Nat) (xs : List F32) : WireVals :=
  if c.wire = .bf16 then
    ⟨(List.zip (List.range xs.length) xs).map fun p => (Fmt.bf16.convert (c.dest.mode (e0 + p.1)) p.2 f32One 0).code, []⟩
  else
    let gs := (List.range (ceilDiv xs.length 128)).map fun j => wireGroup fd c (e0 + 128 * j) ((xs.drop (128 * j)).take 128)
    ⟨gs.flatMap (·.1), gs.map (·.2)⟩

/-- The decoded wire values (04 R117, R120). -/
def fromWire (c : CollCmd) (w : WireVals) : List F32 :=
  if c.wire = .bf16 then w.codes.map fun k => Fmt.bf16.value k 0
  else (List.zip (List.range w.codes.length) w.codes).map fun p => c.wire.element p.2 (f32OfBf16 (w.scales.getD (p.1 / 128) 0)) 0

/-- A chunk's wire image (11 R305). -/
def wireImage (c : CollCmd) (w : WireVals) : List Byte :=
  w.codes.flatMap (leBytes (c.wire.width / 8)) ++ w.scales.flatMap fun b => leBytes 2 b.toNat

/-- The wire values of an image of n elements. -/
def imageVals (c : CollCmd) (n : Nat) (bs : List Byte) : WireVals :=
  let k := c.wire.width / 8
  ⟨(List.range n).map fun i => field bs (k * i) k,
    if c.wire = .bf16 then [] else (List.range (ceilDiv n 128)).map fun j => BitVec.ofNat 16 (field bs (k * n + 2 * j) 2)⟩

/-! ### Reads and writes of a command (11 R300) -/

/-- A's elements from index i on, n of them, through the loft of the issuing tile's base die (08 R221). -/
def readA (s : State) (c : CollCmd) (i n : Nat) : State × Status :=
  let ps := elemsAt c.a i n
  let runs := elemRuns c.a.d ps ++ scaleRuns c.a ps
  if runs.any fun r => runBusy s r.1 r.2 then (s, .busy)
  else
    runs.foldl (fun p r =>
      if p.2 ≠ .ok then p
      else match readRun p.1 (some (tileQuarter c.tile)) true false r.1 r.2 with
        | (s, some w) => (badWordFault s { mkFault s 0x02 .uncorrectable (tileQuarter c.tile) with field := 0xFF } w, .uncorrectable)
        | (s, none) => (s, .ok)) (s, .ok)

def valuesA (s : State) (c : CollCmd) (i n : Nat) : List F32 :=
  (elemsAt c.a i n).map (elemValue s (some (tileQuarter c.tile)) c.a)

/-- Writes that go to their homes and invalidate every loft. -/
def collWrite (s : State) (runs : List (Nat × List Byte)) : State × Status :=
  if runs.any fun r => runBusy s r.1 r.2.length then (s, .busy)
  else
    runs.foldl (fun p r =>
      let (s, lost) := writeRun p.1 .outside r.1 r.2
      (s, if lost then .uncorrectable else p.2)) (s, .ok)

/-- The bits of elements' codes as bytes; D's formats are of whole bytes. -/
def codeRuns (d : Desc) (pcs : List (Pos × Nat)) : List (Nat × List Byte) :=
  (joinWrites (pcs.map fun pc => (d.bitAddr pc.1, d.fmt.width, pc.2))).map fun r => (r.1 / 8, leBytes (r.2.1 / 8) r.2.2)

/-- D written from wire values: index d0 of D on, full-buffer index e0 (11 R311). -/
def writeD (s : State) (c : CollCmd) (d0 e0 : Nat) (w : WireVals) : State × Status :=
  let ps := elemsAt c.d d0 w.codes.length
  if c.d.d.fmt == .bf16 || c.d.d.fmt == .fp16 then
    let codes := if c.bitCopy then w.codes
      else (List.zip (List.range w.codes.length) (fromWire c w)).map fun p => (c.d.d.fmt.convert (c.dest.mode (e0 + p.1)) p.2 f32One 0).code
    collWrite s (codeRuns c.d.d (List.zip ps codes))
  else
    let scales := (List.zip (List.range w.scales.length) w.scales).map fun p =>
      (c.d.sg.base + 2 * c.d.sg.groupIndex c.d.d (c.d.at (d0 + 128 * p.1)), leBytes 2 p.2.toNat)
    collWrite s (codeRuns c.d.d (List.zip ps w.codes) ++ scales)

/-- D's index of a full-buffer index. -/
def indexD (g : GroupRec) (c : CollCmd) (e : Nat) : Nat := if c.op = .reduceScatter then e - shardOff g c g.rank else e
/-- A's index of a full-buffer index. -/
def indexA (g : GroupRec) (c : CollCmd) (e : Nat) : Nat := if c.op = .allGather then e - shardOff g c g.rank else e

/-- The bytes of an image as they lie in slot i of the cribs. -/
def slotImage (s : State) (g : GroupRec) (c : CollCmd) (i n : Nat) : List Byte :=
  ((List.range (ceilDiv n 256)).flatMap fun f => seeBytes s none (cribAddr g c i f) 256).take n

/-- The runs of slot i that an image of n bytes takes. -/
def slotRuns (g : GroupRec) (c : CollCmd) (i n : Nat) : List (Nat × Nat) :=
  (List.range (ceilDiv n 256)).map fun f => (cribAddr g c i f, min 256 (n - 256 * f))

/-- The reads of a received image. -/
def readSlotImage (s : State) (g : GroupRec) (c : CollCmd) (i n : Nat) : State × Status :=
  if (slotRuns g c i n).any fun r => runBusy s r.1 r.2 then (s, .busy)
  else
    (slotRuns g c i n).foldl (fun p r =>
      if p.2 ≠ .ok then p
      else match readRun p.1 none false false r.1 r.2 with
        | (s, some w) => (badWordFault s (mkFault s 0x02 .uncorrectable g.home) w, .uncorrectable)
        | (s, none) => (s, .ok)) (s, .ok)

/-! ### Sending chunks (11 R306, R307) -/

/-- A chunk's header. -/
def chunkHeader (g : Group) (c : CollCmd) (slot : Nat) (k : Chunk) : Nat :=
  pack [(0, k.elements), (32, k.chunk), (51, k.shard), (72, slot), (74, b2n k.nonfinite), (75, k.phase), (76, c.op.code),
    (80, g.epoch.toNat), (96, c.opSeq)]

/-- The last flit's bytes, padded to the multiple of 16 that holds them (log 16). -/
def padFlit (bs : List Byte) : List Byte := bs ++ zeros ((16 - bs.length % 16) % 16)

/-- The image laid in a send slot. -/
def stageChunk (s : State) (g : GroupRec) (c : CollCmd) (i : Nat) (header : Nat) (image : List Byte) : State :=
  let s := (List.range (ceilDiv image.length 256)).foldl (fun s f =>
    (writeRun s .outside (cribAddr g c i f) ((image.drop (256 * f)).take 256)).1) s
  (writeRun s .outside (headerAddr g c i) (leBytes 16 header)).1

/-- One chunk sent: its data flits, then its header. -/
def sendChunk (s : State) (g : Group) (c : CollCmd) (ordinal : Nat) (k : Chunk) : State :=
  let slot := ordinal % 4
  let h := chunkHeader g c slot k
  let s := stageChunk s g.desc c (4 + slot) h k.image
  let s := (List.range (ceilDiv k.image.length 256)).foldl (fun s f =>
    let part := padFlit ((k.image.drop (256 * f)).take 256)
    sendFlit s g.desc.nextPort (mkFlit flitWrite g.desc.lane (cribAddr g.desc c slot f) part.length g.desc.group false part)) s
  sendFlit s g.desc.nextPort (mkFlit flitWrite g.desc.lane (headerAddr g.desc c slot) 16 g.desc.group true (leBytes 16 h))

/-- A slot whose chunk has been added, written or forwarded: its flits are counted afresh, and the release is reported to the
previous member (11 R306). -/
def releaseSlot (s : State) (n : Nat) (slot : Nat) : State :=
  match groupOf s n with
  | some g => sendControl (setGroup s n { g with slotFlits := SMap.erase g.slotFlits slot }) g g.desc.prevPort 1 1 0
  | none => s

/-- Chunks sent while the next member has free slots and the group check has passed (11 R301, R306). -/
def pumpGroup (s : State) (n : Nat) : Nat → State
  | 0 => s
  | fuel + 1 =>
    match groupOf s n with
    | some g =>
      match g.run with
      | some r =>
        match r.ready with
        | k :: rest =>
          if g.nextChecked && g.prevChecked && r.sent < r.released + 4 then
            let s := sendChunk s g r.cmd r.sent k
            let s := putGroup s n { g with
              chunksSent := wrapAdd 64 g.chunksSent 1
              run := some { r with ready := rest, sent := r.sent + 1, nonfinite := r.nonfinite || k.nonfinite } }
            let s := match k.slot with
              | some i => releaseSlot s n i
              | none => s
            pumpGroup s n fuel
          else s
        | [] => s
      | none => s
    | none => s

/-- The run of a group changed, and its chunks sent. -/
def setRun (s : State) (n : Nat) (r : CollRun) : State :=
  match groupOf s n with
  | some g => pumpGroup (setGroup s n { g with run := some r }) n 4
  | none => s

/-! ### Making chunks -/

def anyNonfinite (xs : List F32) : Bool := xs.any fun x => !f32Finite x

/-- This member's own contribution of a piece, on the wire: the first send, and D when P is 1 (11 R311, R314). -/
def ownWire (s : State) (g : Group) (fd : Field) (c : CollCmd) (p : Piece) : WireVals × Bool :=
  let i := indexA g.desc c p.first
  if c.bitCopy then
    let codes := (elemsAt c.a i p.n).map (elemCode s (some (tileQuarter c.tile)) c.a.d)
    (⟨codes, []⟩, anyNonfinite (codes.map fun k => Fmt.bf16.value k 0))
  else
    let xs := valuesA s c i p.n
    let w := toWire fd c p.first xs
    (w, anyNonfinite xs || anyNonfinite (fromWire c w))

/-- The final hop of a piece: D, the sum of squares, and the all-gather's first send (11 R303, R311, R313). -/
def finalHop (s : State) (g : Group) (r : CollRun) (p : Piece) (w : WireVals) (nf : Bool) : State × CollRun × Status :=
  let c := r.cmd
  let (s, st) := writeD s c (indexD g.desc c p.first) p.first w
  let sq := (fromWire c w).map fun v => fmul v v
  let r := { r with
    carry := if c.op = .allGather then r.carry else (scanRun 0 false [] r.carry sq).2
    nonfinite := r.nonfinite || nf
    ready := if c.op = .allreduce ∧ g.desc.size ≠ 1 then r.ready ++ [⟨p.shard, p.chunk, 1, p.n, nf, wireImage c w, none⟩] else r.ready }
  (s, r, st)

/-- One of this member's own pieces at the start of a command. -/
def ownPiece (g : Group) (fd : Field) (z : State × CollRun × Status) (p : Piece) : State × CollRun × Status :=
  let (s, r, st) := z
  if st ≠ .ok then z
  else
    let c := r.cmd
    let (w, nf) := ownWire s g fd c p
    let (s, rst) := readA s c (indexA g.desc c p.first) p.n
    if rst ≠ .ok then (s, r, rst)
    else if g.desc.size = 1 then finalHop s g r p w nf
    else
      let r := { r with nonfinite := r.nonfinite || nf, ready := r.ready ++ [⟨p.shard, p.chunk, p.phase, p.n, nf, wireImage c w, none⟩] }
      if p.phase = 1 then
        let (s, wst) := writeD s c (indexD g.desc c p.first) p.first w
        (s, r, wst)
      else (s, r, .ok)

/-- Scalars on the wire (11 R314; 07 R201). -/
def scalarImage (xs : List F32) : List Byte := slice (xs.flatMap fun x => leBytes 4 x.toNat) 0 16

/-- SCALAR_ALLREDUCE's result written to the block at DESC_D. -/
def scalarResult (s : State) (c : CollCmd) (xs : List F32) : State × Status :=
  if c.op = .barrier then (s, .ok)
  else collWrite s [(padAddr c.tile (32 * c.slotD), xs.flatMap fun x => leBytes 4 x.toNat)]

/-- The chunk of a lap. -/
def lapChunk (phase : Nat) (c : CollCmd) (xs : List F32) (nf : Bool) : Chunk :=
  ⟨0, 0, phase, 0, nf, if c.op = .barrier then [] else scalarImage xs, none⟩

/-! ### COLLECTIVE_COMMAND_START (11 R296, R301, R303) -/

/-- The address of SIGNAL_PEER's word. -/
def peerWord (c : CollCmd) : Nat := quarterWindow (bits c.imm 29 28) + 0x20000 + 4 * bits c.imm 11 0

/-- SIGNAL_PEER's flit. -/
def sendPeer (s : State) (g : Group) (c : CollCmd) : State :=
  sendFlit s (if bit c.imm 31 then g.desc.prevPort else g.desc.nextPort)
    (mkFlit flitSignal g.desc.lane (peerWord c) 16 g.desc.group false (leBytes 16 (bits c.imm 27 12)))

/-- What a command does as it is taken up. -/
def startCommand (s : State) (n : Nat) (g : Group) (fd : Field) (c : CollCmd) : State :=
  let r : CollRun := ⟨c, [], 0, 0, 0, false, chainIdentity 0, .ok⟩
  let r0 := { r with nonfinite := c.nfIn || anyNonfinite c.scalars }
  match c.op with
  | .signalPeer => setRun (if g.desc.size = 1 then s else sendPeer s g c) n r
  | .scalarAllreduce | .barrier =>
    if g.desc.size = 1 then
      let (s, st) := scalarResult s c c.scalars
      let s := setRun s n r0
      if st = .ok then s else failRun s n st
    else if g.desc.rank = 1 then setRun s n { r0 with ready := [lapChunk 0 c c.scalars r0.nonfinite] }
    else setRun s n r
  | op =>
    let own := if g.desc.size = 1 then shardPieces g.desc c (b2n (op == .allGather)) 0 0
      else if op = .allGather then shardPieces g.desc c 1 0 g.desc.rank
      else shardPieces g.desc c 0 0 ((g.desc.rank + g.desc.members) % g.desc.size)
    let (s, r, st) := own.foldl (ownPiece g fd) (s, r, .ok)
    let s := setRun s n r
    if st = .ok then s else failRun s n st

/-- The exchange of the group check (11 R301): the neighbours' serials compared, and this member's check sent. -/
def sendChecks (s : State) (g : Group) : State × Group × Status :=
  if g.desc.size = 1 then (s, { g with checkSent := true, nextChecked := true, prevChecked := true }, .ok)
  else if g.checkSent then (s, g, .ok)
  else if (portOf s g.desc.nextPort).peerSerial != g.desc.nextSerial || (portOf s g.desc.prevPort).peerSerial != g.desc.prevSerial then
    (s, g, .range)
  else
    ((neighbourPorts g none).foldl (fun s p => sendControl s g p 5 0 g.desc.check.toNat) s, { g with checkSent := true }, .ok)

/-- Whether the sequencer's traffic for a command would cross a split ring: then it waits for the links (01 R19). A, D, the crib
tiles and DONE_WORD are reached from the group's home quarter. -/
def collCut (s : State) (g : Group) (c : CollCmd) : Bool :=
  let h := g.desc.home
  let tensor := fun (o : Operand) (n : Nat) => let ps := elemsAt o 0 n; elemRuns o.d ps ++ scaleRuns o ps
  !((List.range 4).all fun l => ringPathUp s l 1) &&
    ((c.tile :: g.desc.cribTiles).any (fun t => !ringReaches s h (tileQuarter t)) || (c.doneEn && !ringReaches s h c.doneQuarter)
      || (c.op.data && (tensor c.a (c.countA g.desc) ++ tensor c.d (c.countD g.desc)).any fun r => runCut s h r.1 r.2))

/-- COLLECTIVE_COMMAND_START (11 R296, R301): the sequencer takes the oldest command of a ready group. -/
def collectiveStart (group : Nat) (s : State) : State :=
  (match groupOf s group with
    | some g =>
      match g.state, g.run, g.queue, fieldOf s g.field with
      | .ready, none, c :: rest, some fd =>
        if tileRuns s (g.desc.crib 0) && !collCut s g c then
          let g := { g with queue := rest, state := .running, run := some ⟨c, [], 0, 0, 0, false, chainIdentity 0, .ok⟩, slotFlits := [] }
          let (s, g, st) := sendChecks s g
          let s := putGroup s group g
          if st ≠ .ok then failRun s group st else startCommand s group g fd c
        else s
      | _, _, _, _ => s
    | none => s)

/-! ### CHUNK_ARRIVAL (11 R309, R311 to R314) -/

/-- The header's fields. -/
def headerOpSeq (h : BitVec 128) : Nat := bits h.toNat 127 96
def headerEpoch (h : BitVec 128) : BitVec 16 := BitVec.ofNat 16 (bits h.toNat 95 80)
def headerSlot (h : BitVec 128) : Nat := bits h.toNat 73 72
def headerNonfinite (h : BitVec 128) : Bool := bit h.toNat 74

/-- Whether a header is that of the chunk expected next, with all its data (11 R309). -/
def headerMatches (g : Group) (r : CollRun) (h : BitVec 128) : Option Piece :=
  match (expectPlan g.desc r.cmd)[r.received]? with
  | some p =>
    let slot := r.received % 4
    if bits h.toNat 79 76 = r.cmd.op.code ∧ bits h.toNat 75 75 = p.phase ∧ headerSlot h = slot ∧ bits h.toNat 63 51 = p.shard
        ∧ bits h.toNat 50 32 = p.chunk ∧ bits h.toNat 31 0 = p.n
        ∧ SMap.get 0 g.slotFlits slot = ceilDiv (r.cmd.imageBytes p.n) 256 then some p
    else none
  | none => none

/-- A lap of SCALAR_ALLREDUCE or BARRIER arrives (11 R314). -/
def lapArrives (s : State) (g : Group) (r : CollRun) (p : Piece) (image : List Byte) (nf : Bool) : State × CollRun × Status :=
  let c := r.cmd
  let xs := (List.range c.scalars.length).map fun k => BitVec.ofNat 32 (field image (4 * k) 4)
  if p.phase = 0 then
    let ys := (List.zip xs c.scalars).map fun q => fadd q.1 q.2
    let nf := nf || c.nfIn || anyNonfinite c.scalars || anyNonfinite ys
    let r := { r with nonfinite := nf, ready := r.ready ++ [lapChunk (b2n (g.desc.rank == 0)) c ys nf] }
    if g.desc.rank = 0 then let (s, st) := scalarResult s c ys; (s, r, st) else (s, r, .ok)
  else
    let (s, st) := scalarResult s c xs
    (s, { r with nonfinite := nf, ready := if g.desc.rank = g.desc.members then r.ready else r.ready ++ [{ lapChunk 1 c xs nf with slot := some (r.received % 4) }] }, st)

/-- A data chunk arrives: reduced, or written and forwarded (11 R303, R311, R312). -/
def pieceArrives (s : State) (g : Group) (fd : Field) (r : CollRun) (p : Piece) (image : List Byte) (nf : Bool) :
    State × CollRun × Status :=
  let c := r.cmd
  let w := imageVals c p.n image
  let recv := fromWire c w
  if p.phase = 0 then
    let own := valuesA s c (indexA g.desc c p.first) p.n
    let (s, rst) := readA s c (indexA g.desc c p.first) p.n
    if rst ≠ .ok then (s, r, rst)
    else
      let v := (List.zip recv own).map fun q => fadd q.1 q.2
      let w' := toWire fd c p.first v
      let nf := nf || anyNonfinite recv || anyNonfinite own || anyNonfinite (fromWire c w')
      if p.step + 2 < g.desc.size then
        (s, { r with nonfinite := r.nonfinite || nf, ready := r.ready ++ [⟨p.shard, p.chunk, 0, p.n, nf, wireImage c w', none⟩] }, .ok)
      else finalHop s g r p w' nf
  else
    let (s, st) := writeD s c (indexD g.desc c p.first) p.first w
    (s, { r with nonfinite := r.nonfinite || nf
                 ready := if p.step + 2 < g.desc.size then r.ready ++ [⟨p.shard, p.chunk, 1, p.n, nf, image, some (r.received % 4)⟩] else r.ready }, st)

/-- A chunk whose header matches. -/
def takeChunk (s : State) (n : Nat) (g : Group) (fd : Field) (r : CollRun) (p : Piece) (h : BitVec 128) : State :=
  let c := r.cmd
  let slot := r.received % 4
  let len := c.imageBytes p.n
  let image := slotImage s g.desc c slot len
  let (s, rst) := readSlotImage s g.desc c slot len
  if rst ≠ .ok then failRun s n rst
  else
    let nf := headerNonfinite h
    let (s, r, st) := if c.op.data then pieceArrives s g fd r p image nf else lapArrives s g r p image nf
    let s := match groupOf s n with
      | some g => putGroup s n { g with
          chunksRecv := wrapAdd 64 g.chunksRecv 1
          run := some { r with received := r.received + 1, nonfinite := r.nonfinite || nf } }
      | none => s
    let forwards := (r.ready.getLast?.map fun k => k.slot == some slot).getD false
    if st ≠ .ok then failRun s n st else pumpGroup (if forwards then s else releaseSlot s n slot) n 4

/-- CHUNK_ARRIVAL (11 R309). A chunk of a command that the member has not yet taken up waits, so it does not occur yet. -/
def chunkArrives (group : Nat) (header : BitVec 128) (s : State) : State :=
  (match groupOf s group with
    | some g =>
      if (headerEpoch header - g.epoch).msb then releaseSlot s group (headerSlot header)
      else
        match g.state, g.run, fieldOf s g.field with
        | .running, some r, some fd =>
          if headerOpSeq header ≠ r.cmd.opSeq then
            if (BitVec.ofNat 32 (headerOpSeq header) - BitVec.ofNat 32 r.cmd.opSeq).msb then failRun s group .range else s
          else if !tileRuns s (g.desc.crib 0) || collCut s g r.cmd then s
          else
            match headerMatches g r header with
            | some p => takeChunk s group g fd r p header
            | none => failRun s group .range
        | _, _, _ => s
    | none => s)

/-! ### COLLECTIVE_COMMAND_END (11 R300) -/

/-- Whether a link has acknowledged SIGNAL_PEER's flit. -/
def peerAcked (s : State) (g : Group) (c : CollCmd) : Bool :=
  let p := portOf s (if bit c.imm 31 then g.desc.prevPort else g.desc.nextPort)
  g.desc.size == 1 || (p.held ++ p.waiting).all fun f => !(f.type == flitSignal && f.tag == g.desc.group && f.addr != 0)

/-- Whether this member's part of its command has ended. -/
def partEnded (s : State) (g : Group) (r : CollRun) : Bool :=
  r.ready.isEmpty && r.released == r.sent && r.received == (expectPlan g.desc r.cmd).length
    && r.sent == (memberPlan g.desc r.cmd g.desc.rank).length && (r.cmd.op != .signalPeer || peerAcked s g r.cmd)

/-- The sum of squares written to SCAL0 of its block (11 R313). -/
def writeSumsq (s : State) (r : CollRun) : State × Status :=
  if (r.cmd.op = .allreduce ∨ r.cmd.op = .reduceScatter) ∧ r.cmd.sumsqSlot ≠ 0xFFFF then
    collWrite s [(padAddr r.cmd.tile (32 * r.cmd.sumsqSlot), leBytes 4 r.carry.toNat)]
  else (s, .ok)

/-- COLLECTIVE_COMMAND_END (11 R300). -/
def collectiveEnd (group : Nat) (s : State) : State :=
  (match groupOf s group with
    | some g =>
      match g.run with
      | some r =>
        if partEnded s g r && !collCut s g r.cmd then
          let (s, st) := writeSumsq s r
          if st ≠ .ok then failRun s group st else endCommand (dropRun s group g .ready) group r.cmd .ok r.nonfinite
        else s
      | none => s
    | none => s)

/-! ### COLLECTIVE_TIMEOUT, REJOIN_TOKEN_TIMER (11 R316, R317) -/

/-- Whether a command's TIMEOUT may have expired (log 8). -/
def CollCmd.due (c : CollCmd) (sclk : Nat) : Bool := c.start + c.timeout ≤ sclk + 99

/-- COLLECTIVE_TIMEOUT (11 R317): the command that is due ends with E_TIMEOUT, and the group is abandoned. -/
def collectiveTimeout (group : Nat) (s : State) : State :=
  (match groupOf s group with
    | some g =>
      match g.run.filter fun r => r.cmd.due s.power.sclk && !collCut s g r.cmd with
      | some _ => failRun s group .timeout
      | none =>
        match g.queue.find? fun c => c.due s.power.sclk && !collCut s g c with
        | some c =>
          let s := putGroup s group { g with queue := g.queue.erase c }
          abandonGroup (endCommand s group c .timeout false) group none
        | none => s
    | none => s)

/-- The larger of two epochs under the signed 16-bit difference (11 R315, R316). -/
def epochMax (a b : BitVec 16) : BitVec 16 := if (a - b).msb then b else a

/-- REJOIN_TOKEN_TIMER (11 R316). -/
def execRejoinTokenTimer (group : Nat) (s : State) : Host.Outcome State Fault Refusal :=
  .next (match groupOf s group with
    | some g =>
      if g.state = .partitioned ∧ g.desc.rank = 0 ∧ g.desc.size ≠ 1 ∧ !groupCut s g then
        sendControl s g g.desc.nextPort 3 0 (epochMax g.epoch g.tokenEpoch).toNat
      else s
    | none => s)

/-! ### Control flits (11 R306, R308, R315, R316) -/

/-- Slots released (11 R306). -/
def slotsReleased (s : State) (n count : Nat) : State :=
  match groupOf s n with
  | some g =>
    match g.run with
    | some r => setRun s n { r with released := min r.sent (r.released + count) }
    | none => s
  | none => s

/-- A partition notice from a port (11 R315). -/
def noticeArrives (s : State) (n : Nat) (epoch : BitVec 16) (port : Nat) : State :=
  match groupOf s n with
  | some g =>
    if (epoch - g.epoch).msb || epoch == g.epoch then s
    else partitionGroup (setGroup s n { g with tokenEpoch := epochMax g.tokenEpoch epoch }) n epoch (some port)
  | none => s

/-- The member becomes ready (11 R316, R318): queued commands count OP_SEQ afresh, and the next member's slots are free (R306).
What it has of the group check stays, since a neighbour that became ready earlier may have sent its check already. -/
def becomeReady (s : State) (n : Nat) (g : Group) (epoch : BitVec 16) : State :=
  putGroup s n { g with
    epoch := epoch, state := .ready, doneOpSeq := 0, nextOpSeq := 1 + g.queue.length
    run := g.run.map fun r => { r with released := r.sent }
    slotFlits := []
    queue := (List.zip (List.range g.queue.length) g.queue).map fun p => { p.2 with opSeq := p.1 + 1 } }

/-- The group check is to be exchanged again (11 R301). -/
def Group.unchecked (g : Group) : Group := { g with checkSent := false, nextChecked := false, prevChecked := false }

/-- A rejoin token (11 R316). One that finds a member not partitioned, whose neighbours rejoin, has it exchange its check again. -/
def tokenArrives (s : State) (n : Nat) (epoch : BitVec 16) : State :=
  match groupOf s n with
  | some g =>
    if g.state = .abandoned ∨ groupCut s g then s
    else
      let e := epochMax g.epoch epoch
      let g := { g with tokenEpoch := epochMax g.tokenEpoch epoch }
      if g.desc.rank ≠ 0 then
        let g := if g.state = .partitioned then { g with epoch := e } else { g.unchecked with epoch := e }
        sendControl (putGroup s n g) g g.desc.nextPort 3 0 e.toNat
      else if g.state = .partitioned then
        let s := becomeReady s n g epoch
        sendControl s g g.desc.nextPort 4 0 epoch.toNat
      else s
  | none => s

/-- A ready token (11 R316): every member that receives it takes the epoch and is ready, one whose command is in flight too. -/
def readyArrives (s : State) (n : Nat) (epoch : BitVec 16) : State :=
  match groupOf s n with
  | some g =>
    if g.desc.rank = 0 ∨ g.state = .abandoned then s
    else
      let s := becomeReady s n g epoch
      let s := match groupOf s n with
        | some g => if g.run.isSome then setGroup s n { g with state := .running } else s
        | none => s
      if g.desc.rank = g.desc.members then s else sendControl s g g.desc.nextPort 4 0 epoch.toNat
  | none => s

/-- A group check from a port (11 R301). -/
def checkArrives (s : State) (n : Nat) (value : BitVec 16) (port : Nat) : State :=
  match groupOf s n with
  | some g =>
    if g.state = .abandoned then s
    else if value ≠ g.desc.check then failRun s n .image
    else
      pumpGroup (setGroup s n { g with nextChecked := g.nextChecked || port == g.desc.nextPort
                                       prevChecked := g.prevChecked || port == g.desc.prevPort }) n 4
  | none => s

/-- A refused data flit of a group ends its command and abandons it (10 R270; 11 R309). -/
def refusedWrite (s : State) (n : Nat) (st : Status) : State :=
  match groupOf s n with
  | some g => if g.run.isSome && (g.run.map fun r => r.cmd.op != .signalPeer).getD false then failRun s n st else s
  | none => s

end Sys2Proof.Machine
end

