-- ==== Sys2Proof/Machine/Filub.lean ====
section
/-! DEFINITION. Receiving on Filub ports (10 R265 to R270, R273), the rows of the collective sequencers that may free a lane, and
modules, heartbeats and die-to-die links (10 R271, R275, R277, R278). -/
namespace Sys2Proof.Machine

/-! ### Acceptance (10 R265, R266, R269) -/

/-- Word 1 of a payload. -/
def word1 (f : Flit) : Nat := field f.payload 0 16

/-- A group control flit (11 R308). -/
def isControl (f : Flit) : Bool := f.type == flitSignal && f.lane < 16 && f.addr == 0
def controlCode (f : Flit) : Nat := bits (word1 f) 7 0

/-- Whether a payload's reserved bits are zero (10 R266). Those in word 1 of a control flit are 11 R308's. -/
def payloadOk (f : Flit) : Bool :=
  let used := match f.type with
    | 2 => if isControl f then 128 else 32 | 3 => 99 | 4 => 80 | 6 => 89 | _ => 0
  f.type == flitWrite || (word1 f / 2 ^ used == 0 && (f.payload.drop 16).all (· == 0))

/-- Whether a flit obeys 10 R265 and R266: its header's fields, and no reserved bit set. -/
def flitOk (f : Flit) : Bool :=
  let lane := match f.type with
    | 1 => f.lane < 16 | 2 => f.lane < 17 | 3 => f.lane == 16 | 4 => f.lane < 16
    | 6 => f.lane == 17 || f.lane == 31 | 0 => f.lane == 31 | 5 => f.lane == 31 | _ => false
  lane && f.length ≤ 256 && f.payload.length == f.length && f.creditLane < 18 && f.creditCount < 64 && f.ackSeq < 4096
    && f.addr < 2 ^ 42 && f.tag < 256 && (!flitLink f || f.seq == 0) && payloadOk f

/-- The acknowledgement and the credits that a flit carries. -/
def takeAck (s : State) (k : Nat) (f : Flit) : State :=
  let p := portOf s k
  let n := match p.held with
    | h :: _ => (f.ackSeq + 4096 - h.seq) % 4096
    | [] => 0
  let n := if n ≤ p.held.length then n else 0
  let p := { p with held := p.held.drop n, replays := if n = 0 then p.replays else 0 }
  let p := { p with credits := if f.creditCount = 0 then p.credits else SMap.modify 0 p.credits f.creditLane (· + f.creditCount) }
  sendLate (pumpPort (setPort s k p) k) k

/-- Whether a credited flit arrives on a lane without a credit or a free slot (10 R267). -/
def noSlot (p : Port) (f : Flit) : Bool :=
  flitCredited f && advertised ≤ SMap.get 0 p.taken f.lane + (SMap.get [] p.rx f.lane).length

/-- A flit that fails is discarded; NAK goes out once until the expected one arrives (10 R269). -/
def failFlit (s : State) (k : Nat) : State :=
  let p := portOf s k
  if p.state ≠ .up ∨ p.nakSent then s
  else launch (setPort s k { p with nakSent := true }) k (mkFlit flitNak 31 0 0 0 false [])

/-- An IDLE that returns acknowledgement and credits after an accepted flit (10 R266; log 16). -/
def sendIdle (s : State) (k : Nat) : State :=
  if (portOf s k).state = .up then launch s k (mkFlit flitIdle 31 0 0 0 false []) else s

/-- A flit received on a port in service: accepted and acted on, or failed. -/
def receive (s : State) (k : Nat) (f : Flit) (act : State → State) : State :=
  let p := portOf s k
  if p.state ≠ .up then s
  else
    let s := setPort s k (p.count 1 1)
    if !flitOk f then failFlit s k
    else if flitLink f then act (takeAck s k f)
    else if f.seq ≠ p.rxSeq then failFlit s k
    else if noSlot p f then protocolError s k
    else
      let s := takeAck s k f
      let s := setPort s k { portOf s k with rxSeq := (p.rxSeq + 1) % 4096, nakSent := false }
      sendIdle (act s) k

/-! ### Lanes (10 R270; 11 R308, R309) -/

/-- The group that a flit's TAG names on its lane. -/
def flitGroup (s : State) (f : Flit) : Option Group :=
  (groupOf s f.tag).filter fun g => g.desc.lane == f.lane

/-- The slot of the crib area that an address lies in, for the command in flight: 0 to 3 receive (11 R305, R309). -/
def receiveSlot (g : Group) (c : CollCmd) (a : Nat) : Option Nat :=
  match (List.range 8).find? fun i => (List.range g.desc.cribTiles.length).any fun t =>
      let lo := padAddr (g.desc.crib t) (4096 * c.cribOffset + i * slotSize g.desc c)
      lo ≤ a && a < lo + slotSize g.desc c with
  | some i => some i
  | none => none

/-- The status with which 10 R270 refuses a WRITE flit. -/
def writeFlitStatus (s : State) (f : Flit) (g : Option Group) : Status :=
  Status.lowest
    [ (f.addr % 16 != 0 || f.length % 16 != 0 || f.length == 0 || 256 < f.addr % 256 + f.length, .range),
      (!runAllowed s .outside true f.addr f.length, .range), (g.isNone, .range),
      ((g.map fun g => !runOwned s g.field f.addr f.length).getD false, .range),
      (runBusy s f.addr f.length, .busy) ]

/-- A refusal: the flit whole (10 R270), with a record when 01 R29 refuses its address (15 R398 class 0x0B, source 2). -/
def refuseFlit (s : State) (k : Nat) (f : Flit) (st : Status) (refused : Bool) : State :=
  sendRefuse (if refused then refusedAccess s 2 (portQuarter k) f.addr st else s) k f st

/-- A WRITE flit at the head of its lane; none while it waits for its command (11 R309) or for the links of a split ring (01 R19). -/
def doWriteFlit (s : State) (k : Nat) (f : Flit) : Option State :=
  let st := writeFlitStatus s f (flitGroup s f)
  if st ≠ .ok then some (refuseFlit s k f st (!runAllowed s .outside true f.addr f.length))
  else if runCut s (portQuarter k) f.addr f.length then none
  else
    match flitGroup s f with
    | none => some s
    | some g =>
      match g.state, g.run with
      | .partitioned, _ => some s
      | .abandoned, _ => some s
      | _, none => none
      | _, some r =>
        if r.received = (expectPlan g.desc r.cmd).length then none
        else
          match receiveSlot g r.cmd f.addr with
          | none => some (refuseFlit s k f .range false)
          | some i =>
            let (s, _) := writeRun s .outside f.addr f.payload
            some (if f.last ∨ 4 ≤ i then s else setGroup s f.tag { g with slotFlits := SMap.modify 0 g.slotFlits i (· + 1) })

/-- The signal word that an address names, with its quarter. -/
def signalTarget (a : Nat) : Option (Nat × Nat) :=
  if quarterWindow 0 ≤ a ∧ a < quarterWindow 4 ∧ a % 4 = 0 then
    let o := (a - quarterWindow 0) % 0x1000000
    if 0x20000 ≤ o ∧ o < 0x24000 then some ((a - quarterWindow 0) / 0x1000000, (o - 0x20000) / 4) else none
  else none

/-- The status with which a SIGNAL flit is refused (10 R270; 02 R64): on a collective lane its TAG names a group. -/
def signalFlitStatus (s : State) (f : Flit) : Status :=
  Status.lowest
    [ ((signalTarget f.addr).isNone, .range), (decide (f.lane < 16) && (flitGroup s f).isNone, .range),
      (((signalTarget f.addr).map fun t => quarterHeld s t.1).getD false, .busy) ]

/-- A SIGNAL flit to a word (10 R270; 02 R64); none while it waits for the links of a split ring (01 R19). -/
def doSignalFlit (s : State) (k : Nat) (f : Flit) : Option State :=
  let st := signalFlitStatus s f
  match signalTarget f.addr with
  | none => some (refuseFlit s k f st true)
  | some (q, w) =>
    if st ≠ .ok then some (refuseFlit s k f st false)
    else if ringReaches s (portQuarter k) q then some (applySignal s 2 q w (BitVec.ofNat 32 (word1 f)))
    else none

/-- A group control flit acted on (11 R308). -/
def doControlFlit (s : State) (k : Nat) (f : Flit) : State :=
  let w := word1 f
  let v := BitVec.ofNat 16 (bits w 31 16)
  if bits w 127 32 ≠ 0 ∨ controlCode f < 1 ∨ 5 < controlCode f then protocolError s k
  else
    match flitGroup s f with
    | none => refuseFlit s k f .range false
    | some _ =>
      match controlCode f with
      | 1 => slotsReleased s f.tag (bits w 15 8)
      | 2 => noticeArrives s f.tag v k
      | 3 => tokenArrives s f.tag v
      | 4 => readyArrives s f.tag v
      | _ => checkArrives s f.tag v k

/-- The flit at the head of a lane's receive buffer. -/
def doLaneFlit (s : State) (k : Nat) (f : Flit) : Option State :=
  if f.type = flitWrite then doWriteFlit s k f
  else if isControl f then some (doControlFlit s k f)
  else doSignalFlit s k f

/-- A lane's flits in order, up to one that waits. -/
def drainLane (k lane : Nat) : Nat → State → State
  | 0, s => s
  | n + 1, s =>
    let p := portOf s k
    match SMap.get [] p.rx lane with
    | [] => s
    | f :: rest =>
      let p := { p with rx := SMap.set [] p.rx lane rest, taken := SMap.modify 0 p.taken lane (· + 1) }
      match doLaneFlit (setPort s k p) k f with
      | some s => drainLane k lane n s
      | none => s

/-- Every lane of every port, as far as it goes. -/
def settleLanes (s : State) : State :=
  (List.range 6).foldl (fun s k => (SMap.keys (portOf s k).rx).foldl (fun s l => drainLane k l advertised s) s) s

/-- A flit put in its lane's buffer. -/
def toLane (k : Nat) (f : Flit) (s : State) : State :=
  let p := portOf s k
  settleLanes (setPort s k { p with rx := SMap.set [] p.rx f.lane (SMap.get [] p.rx f.lane ++ [f]) })

/-! ### The rows of flits -/

/-- A row of flits: a flit of another kind is not the row's, so nothing happens (log 1). -/
def flitRow (port : Nat) (f : Flit) (mine : Bool) (act : State → State) (s : State) : State :=
  if port < 6 ∧ mine then receive s port f act else s

/-- WRITE_FLIT (10 R270). -/
def execWriteFlit (port : Nat) (flit : Flit) (s : State) : Host.Outcome State Fault Refusal :=
  .next (flitRow port flit (flit.type == flitWrite) (toLane port flit) s)

/-- SIGNAL_FLIT (10 R270); control flits of an unknown code are its too (11 R308). -/
def execSignalFlit (port : Nat) (flit : Flit) (s : State) : Host.Outcome State Fault Refusal :=
  .next (flitRow port flit (flit.type == flitSignal && (!isControl flit || controlCode flit < 1 || 5 < controlCode flit)) (toLane port flit) s)

/-- SLOT_RELEASE (11 R306). -/
def execSlotRelease (port : Nat) (flit : Flit) (s : State) : Host.Outcome State Fault Refusal :=
  .next (flitRow port flit (isControl flit && controlCode flit == 1) (toLane port flit) s)
/-- PARTITION_NOTICE (11 R315). -/
def execPartitionNotice (port : Nat) (flit : Flit) (s : State) : Host.Outcome State Fault Refusal :=
  .next (flitRow port flit (isControl flit && controlCode flit == 2) (toLane port flit) s)
/-- REJOIN_TOKEN (11 R316). -/
def execRejoinToken (port : Nat) (flit : Flit) (s : State) : Host.Outcome State Fault Refusal :=
  .next (flitRow port flit (isControl flit && controlCode flit == 3) (toLane port flit) s)
/-- READY_TOKEN (11 R316). -/
def execReadyToken (port : Nat) (flit : Flit) (s : State) : Host.Outcome State Fault Refusal :=
  .next (flitRow port flit (isControl flit && controlCode flit == 4) (toLane port flit) s)
/-- GROUP_CHECK (11 R301). -/
def execGroupCheck (port : Nat) (flit : Flit) (s : State) : Host.Outcome State Fault Refusal :=
  .next (flitRow port flit (isControl flit && controlCode flit == 5) (toLane port flit) s)

/-- The status of a code (00 R11). -/
def statusOf (code : Nat) : Status :=
  ([.ok, .reserved, .version, .image, .capability, .timeout, .abandoned, .partition, .staleShard, .mowFull, .mowOrder, .nonfinite,
    .scaleExhausted, .uncorrectable, .quarantined, .earlyTwice, .signature, .stateExhausted, .busy, .range] : List Status).getD code .ok

/-- A REFUSE: recorded, and the sending group acts on one about a data flit; one about SIGNAL_PEER's flit, whose address lies in a
window, reaches the records only (10 R270; 11 R300, R309). -/
def doRefuseFlit (port : Nat) (f : Flit) (s : State) : State :=
  let w := word1 f
  let st := statusOf (bits w 15 0)
  let addr := bits w 74 33
  let s := setPort s port { portOf s port with lastStatus := st }
  let s := refusedAccess (bumpPort s port 6) 2 (portQuarter port) addr st
  match (groupOf s (bits w 82 75)).filter fun g => g.desc.lane == bits w 20 16 with
  | some g => if scratchBase ≤ addr ∧ addr < windowBase then settleLanes (refusedWrite s g.desc.group st) else s
  | none => s

/-- REFUSE_FLIT (10 R270). -/
def execRefuseFlit (port : Nat) (flit : Flit) (s : State) : Host.Outcome State Fault Refusal :=
  .next (flitRow port flit (flit.type == flitRefuse) (doRefuseFlit port flit) s)

/-- ABANDON_FLIT (11 R294). It has a slot of its own, so it waits behind nothing. -/
def execAbandonFlit (port : Nat) (flit : Flit) (s : State) : Host.Outcome State Fault Refusal :=
  .next (flitRow port flit (flit.type == flitAbandon) (fun s =>
    match flitGroup s flit with
    | some _ => settleLanes (abandonGroup s flit.tag (some port))
    | none => s) s)

/-- One more replay; the eighth in a row without progress retrains the port (10 R269). -/
def replayed (s : State) (k : Nat) : State :=
  let p := portOf s k
  if 7 ≤ p.replays then retrainPort s k else setPort s k { p with replays := p.replays + 1 }

/-- NAK_FLIT (10 R269). -/
def execNakFlit (port : Nat) (flit : Flit) (s : State) : Host.Outcome State Fault Refusal :=
  .next (flitRow port flit (flit.type == flitNak) (fun s => replayed (resendFrom s port flit.ackSeq) port) s)

/-- IDLE_FLIT (10 R266). -/
def execIdleFlit (port : Nat) (flit : Flit) (s : State) : Host.Outcome State Fault Refusal :=
  .next (flitRow port flit (flit.type == flitIdle) id s)

/-- FAILED_FLIT (10 R269). -/
def execFailedFlit (port : Nat) (_flit : Flit) (s : State) : Host.Outcome State Fault Refusal :=
  .next (if port < 6 ∧ (portOf s port).state = .up then failFlit (bumpPort s port 1) port else s)

/-- REPLAY_TIMEOUT (10 R269). -/
def execReplayTimeout (port : Nat) (s : State) : Host.Outcome State Fault Refusal :=
  .next (match (portOf s port).held with
    | f :: _ => if port < 6 ∧ (portOf s port).state = .up then replayed (resendFrom s port f.seq) port else s
    | [] => s)

/-! ### Ports going down and coming up (10 R271, R273) -/

/-- A port out of service with a mask of modules: what it holds is discarded, and its groups meet the cut (10 R271; 11 R315).
`record` says whether the link controller writes a record: it does when the port goes down, not at a quarter reset. -/
def portDown (record : Bool) (s : State) (k : Nat) (st : PortState) (mods : BitVec 10) : State :=
  let before := cutGroups s
  let p := portOf s k
  let s := setPort s k { p.discard with state := st, modules := mods, peerSerial := 0, peerPort := 7 }
  settleLanes (groupsOnPort (if record then linkFault s k .ok (portWidth p) else s) before k)

/-- A port comes up, or finds its own package (10 R273). -/
def portUp (s : State) (k : Nat) (serial : BitVec 64) (peerPort coll ctrl : Nat) : State :=
  let before := cutGroups s
  let p := portOf s k
  let st := if serial = s.mgmt.fuses.serial then PortState.loopback else .up
  let s := setPort s k { p.discard with
    state := st, peerSerial := serial, peerPort := peerPort, credits := if st = .up then fullCredits coll ctrl else []
    counters := p.counters }
  groupsOnPort s before k

/-- A module taken out of service: the peer is told on those left, which carry again the flits that it carried; the loss of the
last one takes the port down (10 R271). -/
def dropModule (s : State) (k m : Nat) : State :=
  let p := portOf s k
  let mods := p.modules &&& ~~~(BitVec.ofNat 10 (2 ^ m))
  let s := setPort s k (p.count 7 1)
  if mods = 0 then portDown true s k .down mods
  else
    let s := setPort s k { portOf s k with modules := mods }
    if p.state = .up then resendCarried (launch s k (mkFlit flitIdent 31 0 16 0 false (identPayload s k))) k m else s

/-- MODULE_OUT_OF_SERVICE (10 R271). -/
def execModuleOutOfService (port module : Nat) (_cause : ModuleCause) (s : State) : Host.Outcome State Fault Refusal :=
  .next (if port < 6 ∧ bit (portOf s port).modules.toNat module then dropModule s port module else s)

/-- MODULE_RETRAIN_TIMER (10 R271): a fitted module out of service is tried again; on a port at width 0 its IDENT follows. -/
def execModuleRetrainTimer (port module : Nat) (trained : Bool) (s : State) : Host.Outcome State Fault Refusal :=
  let p := portOf s port
  let fitted := (SMap.get 0x3FF s.ports.fitted port).toNat
  .next (
    if trained ∧ port < 6 ∧ bit fitted module ∧ !bit p.modules.toNat module ∧ !bit p.absent.toNat module
        ∧ linkRuns s (portQuarter port)
        ∧ (p.state = .up ∨ p.state = .down ∨ p.state = .training) then
      let p := { p with modules := p.modules ||| BitVec.ofNat 10 (2 ^ module), miswired := p.miswired &&& ~~~(BitVec.ofNat 10 (2 ^ module)) }
      let p := { p with state := if p.state = .down then .training else p.state }
      launch (setPort s port (p.count 7 1)) port (mkFlit flitIdent 31 0 16 0 false (identPayload (setPort s port p) port))
    else s)

/-- The lowest module in service. -/
def lowModule (p : Port) : Nat := (upTo 10 fun m => bit p.modules.toNat m).headD 10

/-- What an IDENT flit says. -/
def identOf (f : Flit) : Ident :=
  let w := word1 f
  ⟨BitVec.ofNat 64 (bits w 63 0), bits w 66 64, BitVec.ofNat 10 (bits w 76 67), bits w 82 77, bits w 88 83⟩

/-- Whether an IDENT names the port's peer. -/
def Port.isPeer (p : Port) (d : Ident) : Bool := d.serial == p.peerSerial && d.port == p.peerPort

/-- A module that reports another peer is held out of service and marked (10 R273). -/
def settleModule (s : State) (k m : Nat) (d : Ident) : State :=
  let p := portOf s k
  if bit p.modules.toNat m && !p.isPeer d then
    dropModule (setPort s k { p with miswired := p.miswired ||| BitVec.ofNat 10 (2 ^ m) }) k m
  else s

/-- Modules that the peer does not use are not used (10 R271). -/
def peerModules (s : State) (k : Nat) (d : Ident) : State :=
  (upTo 10 fun m => bit (portOf s k).modules.toNat m && !bit d.modules.toNat m).foldl (fun s m => dropModule s k m) s

/-- What a module reports (10 R273): in training it is kept until the lowest-numbered module has reported, which names the peer;
then each module is held against it. -/
def moduleIdent (s : State) (k m : Nat) (d : Ident) : State :=
  let p := portOf s k
  if !bit p.modules.toNat m then s
  else
    match p.state with
    | .training =>
      let heard := SMap.set none p.idents m (some d)
      match SMap.get none heard (lowModule p) with
      | some low =>
        let s := portUp (setPort s k { p with idents := [] }) k low.serial low.port low.coll low.ctrl
        heard.foldl (fun s x => match x.2 with
          | some d => settleModule s k x.1 d
          | none => s) s
      | none => setPort s k { p with idents := heard }
    | .up => let s := settleModule s k m d; if p.isPeer d then peerModules s k d else s
    | .loopback => settleModule s k m d
    | _ => s

/-- A heartbeat (10 R268, R271, R273): a changed peer takes the port down, and it trains again. -/
def heartbeat (k : Nat) (f : Flit) (s : State) : State :=
  if (portOf s k).isPeer (identOf f) then peerModules s k (identOf f)
  else
    let s := portDown true s k .training (portOf s k).modules
    sendIdents (setPort s k { portOf s k with retrains := satAdd 16 (portOf s k).retrains 1 }) k

/-- IDENT_FLIT (10 R273). -/
def execIdentFlit (port module : Nat) (flit : Flit) (s : State) : Host.Outcome State Fault Refusal :=
  .next (
    if port < 6 ∧ flit.type = flitIdent ∧ flitOk flit then
      if flit.lane = 31 then
        if bit (portOf s port).modules.toNat module then settleLanes (moduleIdent (bumpPort s port 1) port module (identOf flit)) else s
      else receive s port flit (heartbeat port flit)
    else s)

/-- IDENT_HEARTBEAT (10 R268). -/
def execIdentHeartbeat (port : Nat) (s : State) : Host.Outcome State Fault Refusal :=
  .next (if port < 6 then sendFlit s port (mkFlit flitIdent 17 0 16 0 false (identPayload s port)) else s)

/-- The snapshot of a module's memory (10 R275): a module of flat memory, which bit 7 of its byte 2 declares (log 16), is read at
pages 00h only. -/
def cmisSnapshot (m : CmisMemory) : List Byte :=
  let part := fun (l : List Byte) => slice l 0 128
  part m.lower ++ part m.upper
    ++ if bit (m.lower.getD 2 0).toNat 7 then zeros 256 else part m.page1 ++ part m.page11

/-- H0's state and lanes. -/
def setH0 (s : State) (st : PortState) (lanes : Nat) : State := { s with ports := { s.ports with h0State := st, h0Lanes := lanes } }

/-- A module's poll: one that does not answer is absent and leaves service; the error correction's counters move (10 R275, R280). -/
def pollModule (s : State) (k m : Nat) (memory : Option CmisMemory) (corrected uncorrectable : Nat) : State :=
  let p := portOf s k
  let here := BitVec.ofNat 10 (2 ^ m)
  match memory with
  | some mem => setPort s k (({ p with
      snapshots := SMap.set [] p.snapshots m (cmisSnapshot mem), absent := p.absent &&& ~~~here }.count 3 corrected).count 4 uncorrectable)
  | none =>
    let s := setPort s k { p with snapshots := SMap.set [] p.snapshots m [], absent := p.absent ||| here }
    if bit p.modules.toNat m then dropModule s k m else s

/-- H0's module polled: without it H0 is absent; when it answers again H0 trains. -/
def pollH0 (s : State) (memory : Option CmisMemory) (corrected uncorrectable : Nat) : State :=
  let s := { s with ports := { s.ports with h0Snapshot := (memory.map cmisSnapshot).getD [] } }
  match memory with
  | some _ =>
    let s := { s with ports := { s.ports with
      h0Counters := SMap.modify 0 (SMap.modify 0 s.ports.h0Counters 3 (wrapAdd 64 · corrected)) 4 (wrapAdd 64 · uncorrectable) } }
    if s.ports.h0State = .absent ∧ s.mgmt.service ≠ .off ∧ s.mgmt.service ≠ .recovery then setH0 s .training 0 else s
  | none => setH0 s .absent 0

/-- CMIS_POLL (10 R275): a module's memory read, and its snapshot refreshed; port 6 is H0. -/
def execCmisPoll (port module : Nat) (memory : Option CmisMemory) (corrected uncorrectable : Nat) (s : State) :
    Host.Outcome State Fault Refusal :=
  .next (
    if port < 6 ∧ module < 10 then
      if bit (SMap.get 0x3FF s.ports.fitted port).toNat module ∧ linkRuns s (portQuarter port) then
        settleLanes (pollModule s port module memory corrected uncorrectable)
      else s
    else if port = 6 ∧ s.ports.h0Fitted ∧ linkRuns s 0 then pollH0 s memory corrected uncorrectable
    else s)

/-! ### The rows of the sequencers -/

/-- COLLECTIVE_COMMAND_START (11 R296, R301). -/
def execCollectiveCommandStart (group : Nat) (s : State) : Host.Outcome State Fault Refusal :=
  .next (settleLanes (collectiveStart group s))
/-- CHUNK_ARRIVAL (11 R309). -/
def execChunkArrival (group : Nat) (header : BitVec 128) (s : State) : Host.Outcome State Fault Refusal :=
  .next (settleLanes (chunkArrives group header s))
/-- COLLECTIVE_COMMAND_END (11 R300). -/
def execCollectiveCommandEnd (group : Nat) (s : State) : Host.Outcome State Fault Refusal :=
  .next (settleLanes (collectiveEnd group s))
/-- COLLECTIVE_TIMEOUT (11 R317). -/
def execCollectiveTimeout (group : Nat) (s : State) : Host.Outcome State Fault Refusal :=
  .next (settleLanes (collectiveTimeout group s))

/-! ### Die-to-die links (10 R277, R278; 01 R19) -/

def ringOf (s : State) (l : Nat) : Ring := SMap.get {} s.ports.rings l
def setRing (s : State) (l : Nat) (r : Ring) : State := { s with ports := { s.ports with rings := SMap.set {} s.ports.rings l r } }
/-- The quarter at a place of the ring. -/
def ringQuarter (place : Nat) : Nat := ([0, 1, 3, 2] : List Nat).getD (place % 4) 0

/-- A mask's width. -/
def ringWidth (m : BitVec 18) : Nat := (upTo 18 fun k => bit m.toNat k).length

/-- The record of a link, by the base die at its start, whose slot 2 it is. -/
def ringFault (s : State) (l : Nat) (old : Nat) : State :=
  let r := ringOf s l
  let w := ringWidth r.modules
  logFault s { mkFault s 0x0C .ok (ringQuarter l) with
    unitClass := 8, unitIndex := 2, detail := BitVec.ofNat 512 (r.modules.toNat + (old + 256 * w) <<< 32) }

/-- D2D_RESEND_REQUEST (10 R277): the sixteenth in a row without progress retrains the link. -/
def execD2dResendRequest (link : Nat) (progress : Bool) (s : State) : Host.Outcome State Fault Refusal :=
  let r := ringOf s link
  .next (
    if link < 4 ∧ r.state = .up then
      let n := if progress then 0 else r.resends + 1
      let r := { r with resends := if 16 ≤ n then 0 else n, state := if 16 ≤ n then .training else .up
                        counters := SMap.modify 0 r.counters 2 (wrapAdd 64 · 1) }
      { setRing s link r with out := .resend link :: s.out }
    else s)

/-- A link after its two ends have proposed masks (10 R278): the modules both found good, or held down. -/
def Ring.retrain (r : Ring) (a b : BitVec 18) : Ring :=
  let both := a &&& b
  let bad := a != b
  let down := both == 0 || (bad && r.lastBad)
  { r with
    state := if down then .heldDown else .up, modules := if down then 0 else both, resends := 0
    disagree := bad, lastBad := bad
    counters := if ringWidth (if down then 0 else both) = ringWidth r.modules then r.counters
      else SMap.modify 0 r.counters 7 (wrapAdd 64 · 1) }

/-- The ring is split when two links are held down (01 R19). -/
def ringSplit (s : State) : Bool := 2 ≤ ([0, 1, 2, 3].filter fun l => (ringOf s l).state == .heldDown).length

end Sys2Proof.Machine
end

