-- ==== Sys2Proof/Machine/Scan.lean ====
section
/-! DEFINITION. SCAN and CHECK steps: GATHER (09 R247, R248), SWEEP (R250), the write of GO (R249) and FEED (R253). -/
namespace Sys2Proof.Machine

/-! ### GATHER (09 R248) -/

/-- A row's bytes. -/
def rowBytes (d : Desc) : Nat := d.ext.i0 * d.fmt.width / 8
/-- The runs of a whole tensor in LAYOUT 0, row by row in increasing element index. -/
def tensorRuns (d : Desc) : List (Nat × Nat) :=
  (List.range (d.ext.i1 * d.ext.i2 * d.ext.i3)).map fun r =>
    (d.bitAddr ⟨0, r % d.ext.i1, r / d.ext.i1 % d.ext.i2, r / (d.ext.i1 * d.ext.i2)⟩ / 8, rowBytes d)
/-- The address of row r in the matrix of an origin. -/
def rowAddr (o : Operand) (r : Nat) : Nat := o.d.bitAddr ⟨0, r, o.origin.i2, o.origin.i3⟩ / 8
/-- A GATHER's operands and count. -/
structure Gather where
  a : Operand
  b : Operand
  d : Operand
  n : Nat
  deriving DecidableEq, Repr

def gatherOf (s : State) (e : Env) : Gather :=
  ⟨operand s e (stepA e.word) e.originA, operand s e (stepB e.word) e.originB, operand s e (stepD e.word) e.originD, stepLo e.word⟩

def Gather.indexAddr (g : Gather) (r : Nat) : Nat := g.b.d.bitAddr ⟨g.b.origin.i0 + r, 0, 0, 0⟩ / 8
def Gather.dRuns (g : Gather) : List (Nat × Nat) := (List.range g.n).map fun r => (rowAddr g.d (g.d.origin.i1 + r), rowBytes g.d.d)
/-- Every element of A within its extents. -/
def Gather.aRuns (g : Gather) : List (Nat × Nat) := tensorRuns g.a.d
def Gather.bRuns (g : Gather) : List (Nat × Nat) := if g.n = 0 then [] else [(g.indexAddr 0, 4 * g.n)]

/-- Whether the rules of 09 R248 on formats, layouts, extents and origins hold. -/
def Gather.formOk (g : Gather) : Bool :=
  g.a.d.layout == 0 && g.d.d.layout == 0 && g.b.d.layout == 0 && g.a.d.fmtCode == g.d.d.fmtCode && g.a.d.ext.i0 == g.d.d.ext.i0
    && g.a.d.ext.i0 * g.a.d.fmt.width % 8 == 0 && g.b.d.rank == 1 && g.a.origin.i0 == 0 && g.d.origin.i0 == 0
    && g.a.origin.i2 < g.a.d.ext.i2 && g.a.origin.i3 < g.a.d.ext.i3 && g.d.origin.i2 < g.d.d.ext.i2 && g.d.origin.i3 < g.d.d.ext.i3
    && g.b.origin.i0 + g.n ≤ g.b.d.ext.i0 && g.d.origin.i1 + g.n ≤ g.d.d.ext.i1

/-- The conditions on the forms of GATHER: its word and operands (09 R248). -/
def gatherForms (s : State) (e : Env) : List (Bool × Status) :=
  let w := e.word
  [(bits (stepHi w) 12 0 != 0 || 1 < stepUnit w, Status.reserved), (1048575 < stepLo w, .range)]
    ++ operandConds s e (stepA w) e.originA (fun _ => true) false
    ++ operandConds s e (stepB w) e.originB (· == .int32) false
    ++ operandConds s e (stepD w) e.originD (fun _ => true) false

/-- The conditions of GATHER. -/
def gatherConds (s : State) (e : Env) : List (Bool × Status) :=
  let first := gatherForms s e
  if first.any (·.1) then first
  else
    let g := gatherOf s e
    if !g.formOk then [(true, .range)]
    else [(runsOverlap g.dRuns (g.aRuns ++ tensorRuns g.b.d), .range)]
      ++ runConds s e false g.aRuns ++ runConds s e false g.bRuns ++ runConds s e true g.dRuns

/-- The row of A that index r selects, none outside A. -/
def gatherRow (s : State) (e : Env) (g : Gather) (r : Nat) : Option Nat :=
  let i := toSigned 32 (leNat (seeBytes s (some e.quarter) (g.indexAddr r) 4)) + g.a.origin.i1
  if 0 ≤ i ∧ i < g.a.d.ext.i1 then some i.toNat else none

/-- The rows of A that the indices select. -/
def gatherPicks (s : State) (e : Env) (g : Gather) : List (Nat × Nat) :=
  ((List.range g.n).filterMap (gatherRow s e g)).map fun i => (rowAddr g.a i, rowBytes g.a.d)

/-- The accesses of row r: its index, the selected row, and its write. -/
def gatherAccs (s : State) (e : Env) (g : Gather) (r : Nat) : List Acc :=
  let n := rowBytes g.d.d
  let dst := rowAddr g.d (g.d.origin.i1 + r)
  .rd (g.indexAddr r) 4 true true ::
  match gatherRow s e g r with
  | some i => [.rd (rowAddr g.a i) n true true, writeAcc dst (seeBytes s (some e.quarter) (rowAddr g.a i) n)]
  | none => if bit (stepHi e.word) 13 then [writeAcc dst (zeros n)] else []

/-- Rows gathered one by one: the state of the accesses and the rows completed. -/
def gatherLoop (s0 : State) (e : Env) (g : Gather) (z : Running × Nat) (r : Nat) : Running × Nat :=
  let x := (gatherAccs s0 e g r).foldl (runAcc e) z.1
  (x, if x.stop = .ok then r + 1 else z.2)

def doGather (s : State) (e : Env) : StepEnd :=
  if stepOp e.word ≠ 1 then .fail s .reserved
  else
    let slots := issueSlots s e [stepA e.word, stepB e.word, stepD e.word] [] []
    let s := readSlots s e slots
    let st := Status.lowest (gatherConds s e)
    let g := gatherOf s e
    if st ≠ .ok then
      refuseStep s e st (if (gatherForms s e).any (·.1) || !g.formOk then [] else [(false, g.aRuns), (false, g.bRuns), (true, g.dRuns)])
    else if runsCut s e (gatherPicks s e g ++ g.bRuns ++ g.dRuns) then .block (latch s e slots)
    else
      let z := (List.range g.n).foldl (gatherLoop s e g) (⟨s, false, .ok, 0⟩, 0)
      let out := !bit (stepHi e.word) 13 && (List.range g.n).any fun r => (gatherRow s e g r).isNone
      let (s, rst) := closeAccs e z.1
      let st := if rst ≠ .ok then rst else if out then .range else .ok
      let u := stepUnit e.word
      .done (setScan s e.quarter u { scanOf s e.quarter u with lastStatus := st, progress := z.2 }) st []

/-- GATHER, and the reserved SCAN operations (log 1). -/
def execGather (tile ctx : Nat) (s : State) : Host.Outcome State Fault Refusal :=
  .next (runStep s tile ctx 0x07 (fun op => op == 1 || op == 0 || 3 ≤ op) doGather)

/-! ### SWEEP (09 R247, R250) -/

/-- The blocks of a programmed sweep. -/
def sweepRuns (x : Scan) : List (Nat × Nat) :=
  (if x.stride = 0 then [0] else List.range x.count).map fun i => (x.start + i * x.stride, 16 * (x.block16m1 + 1))

def doSweep (s : State) (e : Env) : StepEnd :=
  let u := stepUnit e.word
  if 1 < u ∨ bits e.word.toNat 109 16 ≠ 0 then .fail s .reserved
  else if runsCut s e (sweepRuns (scanOf s e.quarter u)) then .block s
  else
    let (s, st) := sweep s (some (e.tile, e.ctx, e.field)) e.quarter u
    .done s st []

def execSweep (tile ctx : Nat) (s : State) : Host.Outcome State Fault Refusal :=
  .next (runStep s tile ctx 0x07 (· == 2) doSweep)

/-- A writer told the status of a write that a window refused (09 R249, R252). -/
def tellWriter (writer : Writer) (z : State × Status) : State :=
  if z.2 = .ok then z.1 else { z.1 with out := .writeStatus writer z.2 :: z.1.out }

/-- The step that a tile writes for: its context's. -/
def writerAsker (s : State) (t c : Nat) : Asker := some (t, c, (ctxOf s t c).owner)

/-- SWEEP_GO (09 R249, R250; 01 R33): a write of the 32 bytes of START to GO at an engine's window by a tile or firmware. A tile
writes as a step of its context's field. -/
def execSweepGo (writer : Writer) (quarter engine : Nat) (value : BitVec 256) (s : State) : Host.Outcome State Fault Refusal :=
  let q := quarter % 4
  let off := 0x30000 + 0x100 * (engine % 2)
  let data := leBytes 32 value.toNat
  .next (
    if quarterHeld s q ∨ !(quarterOf s q).inService ∨ !s.power.pllLocked then s
    else
      match writer with
      | .tile t c => tellWriter writer (writeEngines s (writerAsker s t c) q off data)
      | .firmware _ =>
        let z := firmwareWrite s q (quarterWindow q + off) data
        z.2.foldl (fun s st => tellWriter writer (s, st)) z.1)

/-! ### FEED (09 R253) -/

/-- The conditions on the form of FEED: its word and operand (09 R253). -/
def feedForms (s : State) (e : Env) : List (Bool × Status) :=
  let w := e.word
  let first := [(stepHi w != 0 || bits (stepLo w) 31 1 != 0 || stepB w != 0xFFFF || stepD w != 0xFFFF || 3 < stepUnit w, Status.reserved)]
    ++ operandConds s e (stepA w) .zero (· != .none) false
  if first.any (·.1) then first
  else
    let d := (operand s e (stepA w) .zero).d
    [(d.layout != 0 || d.ext.i0 * d.fmt.width % 8 != 0, .range)]

/-- The conditions of FEED. -/
def feedConds (s : State) (e : Env) : List (Bool × Status) :=
  let first := feedForms s e
  if first.any (·.1) then first else runConds s e false (tensorRuns (operand s e (stepA e.word) .zero).d)

/-- A FEED in progress. -/
structure Feeding where
  r    : Running
  unit : Cvu
  deriving DecidableEq, Repr

/-- One run fed: whole, or up to the word that cannot be read (09 R250, R253). -/
def feedRun (e : Env) (z : Feeding) (run : Nat × Nat) : Feeding :=
  if z.r.stop ≠ .ok then z
  else
    let bad := (flippedWords z.r.s run.1 run.2).find? fun w => (readWord z.r.s w).bad
    let r := runAcc e z.r (.rd run.1 run.2 false false)
    match bad with
    | some w => ⟨r, z.unit.feed (bytesBefore z.r.s run.1 run.2 w)⟩
    | none => ⟨r, z.unit.feed (seeBytes z.r.s none run.1 run.2)⟩

/-- A unit as a FEED finds it: from INIT where the step says so, RESULT that of what it holds (09 R251, R253). -/
def Cvu.started (x : Cvu) (init : Bool) : Cvu := (if init then x.restart else x).feed []

def doFeed (s : State) (e : Env) : StepEnd :=
  if stepOp e.word ≠ 1 then .fail s .reserved
  else
    let slots := issueSlots s e [stepA e.word] [] []
    let s := readSlots s e slots
    let st := Status.lowest (feedConds s e)
    let d := (operand s e (stepA e.word) .zero).d
    let u := stepUnit e.word
    let x := cvuOf s e.quarter u
    if st ≠ .ok then refuseStep s e st (if (feedForms s e).any (·.1) then [] else [(false, tensorRuns d)])
    else if !x.ready then .fail (setCvu s e.quarter u { x with lastStatus := .range }) .range
    else if runsCut s e (tensorRuns d) then .block (latch s e slots)
    else
      let x := x.started (bit (stepLo e.word) 0)
      let z := (tensorRuns d).foldl (feedRun e) ⟨⟨s, false, .ok, 0⟩, x⟩
      let (s, rst) := closeAccs e z.r
      .done (setCvu s e.quarter u { z.unit with lastStatus := rst }) rst []

/-- FEED, and the reserved CHECK operations (log 1). -/
def execFeed (tile ctx : Nat) (s : State) : Host.Outcome State Fault Refusal :=
  .next (runStep s tile ctx 0x08 (fun _ => true) doFeed)

end Sys2Proof.Machine
end

