-- ==== Sys2Proof/Machine/Host.lean ====
section
/-! DEFINITION. H0: RoCEv2 requests and their failures (10 R257 to R261), the frames it answers (10 R255), priority flow control
(10 R262) and the rate (10 R256); writes to the windows (01 R33); what waits for a ring link (01 R19; 10 R278). -/
namespace Sys2Proof.Machine

/-! ### Sending and counting (10 R262, R280) -/

/-- Counter i of H0's slot moved by n. -/
def bumpH0 (s : State) (i n : Nat) : State :=
  { s with ports := { s.ports with h0Counters := SMap.modify 0 s.ports.h0Counters i (wrapAdd 64 · n) } }

/-- Whether a priority may send: it waits while it is paused and flow control is on (10 R262). -/
def prioOpen (s : State) (prio : Nat) : Bool := !(s.ports.net.pfc && SMap.get false s.ports.paused prio)

/-- Sends n frames on a priority, or leaves them to wait for its resume. -/
def sendH0 (s : State) (prio n : Nat) (o : Out) : State :=
  if prioOpen s prio then { bumpH0 s 0 n with out := o :: s.out }
  else { s with ports := { s.ports with held := s.ports.held ++ [(prio, n, o)] } }

/-- What waits on priorities that may send again goes out, in order. -/
def releaseHeld (s : State) : State :=
  let go := s.ports.held.filter fun h => prioOpen s h.1
  let s := { s with ports := { s.ports with held := s.ports.held.filter fun h => !prioOpen s h.1 } }
  go.foldl (fun s h => sendH0 s h.1 h.2.1 h.2.2) s

/-- Whether H0 receives IP packets: it is up and holds an address (10 R257; 14 R384 SET_NET). -/
def h0Receives (s : State) : Bool :=
  s.ports.h0State == .up && (s.ports.net.ipv4 != 0 || s.ports.net.ipv6 != 0)

/-! ### Queue pairs -/

def qpOf (s : State) (i : Nat) : Option Qp := SMap.get none s.ports.qps i
def setQp (s : State) (i : Nat) (q : Qp) : State :=
  { s with ports := { s.ports with qps := SMap.set none s.ports.qps i (some q) } }

/-- The index of a queue pair number (10 R257). -/
def qpIndex (qpn : Nat) : Option Nat := if 0x100 ≤ qpn ∧ qpn < 0x200 then some (qpn - 0x100) else none

/-- Whether a queue pair takes requests. -/
def Qp.ready (q : Qp) : Bool := q.state == .rtr || q.state == .rts

/-- Packets of a message of n bytes at an MTU code (10 R257). -/
def mtuPackets (mtu n : Nat) : Nat := max 1 (ceilDiv n (512 * 2 ^ mtu))

/-- Where a PSN stands: expected, ahead of it, or behind it, which is a request seen before (log 23). -/
inductive PsnPlace where
  | expected | ahead | behind
  deriving DecidableEq, Repr

def psnPlace (q : Qp) (psn : Nat) : PsnPlace :=
  let d := (psn + 2 ^ 24 - q.psn) % 2 ^ 24
  if d = 0 then .expected else if d < 2 ^ 23 then .ahead else .behind

/-- The ECN field of every packet sent: ECT(0) (10 R260). -/
def ect0 : Nat := 2

/-- A RoCEv2 reply of n packets, to the MAC address of the frame that caused it (10 R255). -/
def sendRoce (s : State) (i : Nat) (mac : BitVec 48) (n : Nat) (r : RoceReply) : State :=
  sendH0 s s.ports.net.rocePrio n (.roce i mac ect0 r)

/-- The notification for a CE mark, at most one every 50 µs (10 R260). -/
def noteCe (s : State) (i : Nat) (q : Qp) (req : Rdma) : State × Qp :=
  if req.ce && (q.cnpAt.map fun t => decide (t + 5000 ≤ s.power.sclk)).getD true then
    let q := { q with cnpSent := satAdd 16 q.cnpSent 1, cnpAt := some s.power.sclk }
    (sendRoce (setQp s i q) i req.mac 1 .cnp, q)
  else (s, q)

/-- A request that fails under R258: the error state, LAST_STATUS and the NAK. -/
def failQp (s : State) (i : Nat) (mac : BitVec 48) (q : Qp) (st : Status) : State :=
  let s := setQp s i { q with state := .error, last := st }
  let s := bumpH0 { s with ports := { s.ports with h0Last := st } } 5 1
  sendRoce s i mac 1 (if st = .range then .nakAccess else .nakOperational)

/-- A request outside the subset: the error state and its NAK (10 R257). -/
def invalidRequest (s : State) (i : Nat) (mac : BitVec 48) (q : Qp) : State := sendRoce (setQp s i { q with state := .error }) i mac 1 .nakInvalid

/-! ### The receive buffers (10 R262) -/

/-- Bytes of a priority's receive buffer. -/
def bufferBytes : Nat := 0x400000

/-- The data that an operation that waits keeps in the buffer, and the queue pair that it is of. -/
def Stalled.bytes : Stalled → Nat
  | .write _ _ data => data.length
  | _ => 0
def Stalled.pair : Stalled → Option Nat
  | .write i _ _ => some i
  | .read i _ _ => some i
  | _ => none

/-- What a priority's receive buffer holds: RDMA data that waits for a split ring, datagrams that wait for the management processor. -/
def rxFill (s : State) (prio : Nat) : Nat :=
  (if s.ports.net.rocePrio = prio then (s.ports.stalled.map Stalled.bytes).sum else 0)
    + (if s.ports.net.mgmtPrio = prio then s.mgmt.waitBytes else 0)

/-- The peer paused on a priority whose buffer is more than 75 % full, and resumed when it falls below 50 %. -/
def notePriority (s : State) (prio : Nat) : State :=
  let held := SMap.get false s.ports.pausing prio
  let say := fun (on : Bool) =>
    let s := { s with ports := { s.ports with pausing := SMap.set false s.ports.pausing prio on }, out := .pfc prio on :: s.out }
    bumpH0 (bumpH0 s 0 1) 11 1
  if s.ports.net.pfc && !held && decide (3 * bufferBytes < 4 * rxFill s prio) then say true
  else if held && decide (2 * rxFill s prio < bufferBytes) then say false
  else s

def noteBuffers (s : State) : State := [s.ports.net.rocePrio, s.ports.net.mgmtPrio].eraseDups.foldl notePriority s

/-- Whether a packet finds its buffer full, with flow control off. -/
def bufferFull (s : State) (prio bytes : Nat) : Bool := !s.ports.net.pfc && decide (bufferBytes < rxFill s prio + bytes)

/-! ### Requests -/

/-- A request received: dropped, answered with a sequence error, or acted on (10 R257). `bytes` is its packets' data. A buffer that
is full drops it (10 R262). -/
def roceRequest (s : State) (req : Rdma) (bytes : Nat) (act : State → Nat → Qp → Bool → State) : State :=
  if !h0Receives s then s
  else
    let q := (qpIndex req.qpn).bind (qpOf s)
    let n := (q.map fun q => mtuPackets q.mtu bytes).getD (max 1 req.packets)
    let s := bumpH0 s 1 n
    if bufferFull s s.ports.net.rocePrio bytes then bumpH0 s 8 n
    else
      match qpIndex req.qpn, q with
      | some i, some q =>
        if q.ready then
          let (s, q) := noteCe s i q req
          match psnPlace q req.psn with
          | .ahead => sendRoce (bumpH0 s 2 1) i req.mac 1 (.nakSequence q.psn)
          | .expected => act s i q false
          | .behind => act s i q true
        else bumpH0 s 8 n
      | _, _ => bumpH0 s 8 n

/-- The queue pair after a request of n packets. -/
def Qp.passed (q : Qp) (again : Bool) (n : Nat) : Qp := if again then q else { q with psn := (q.psn + n) % 2 ^ 24 }

/-- Whether an address lies in a signal-word window (01 R32). -/
def inSignals (a : Nat) : Bool :=
  quarterWindow 0 ≤ a && a < quarterWindow 4 && (a - quarterWindow 0) % 0x1000000 / 0x10000 == 2

/-- The data of an accepted WRITE written (10 R258, R259): the state, and the status it fails with. -/
def rdmaStore (s : State) (addr : Nat) (data : List Byte) : State × Status :=
  if inSignals addr then
    match signalTarget addr with
    | some (q, w) =>
      if data.length ≠ 4 then (refusedAccess s 1 0 addr .range, .range)
      else if quarterHeld s q then (s, .busy)
      else (applySignal s 1 q w (BitVec.ofNat 32 (leNat data)), .ok)
    | none => (refusedAccess s 1 0 addr .range, .range)
  else if !runAllowed s .outside true addr data.length then (refusedAccess s 1 0 addr .range, .range)
  else if runBusy s addr data.length then (s, .busy)
  else
    match writeRun s .outside addr data with
    | (s, true) => (logFault s { mkFault s 0x03 .uncorrectable (homeOf s addr) with addr := addr }, .uncorrectable)
    | (s, false) => (s, .ok)

/-- Whether earlier operations of a queue pair wait (01 R19), so that its later ones wait behind them (10 R259). -/
def pairWaits (s : State) (i : Nat) : Bool := s.ports.stalled.any fun x => x.pair == some i

/-- An operation that waits: it has been received, so the next PSN is expected. -/
def holdOperation (s : State) (i : Nat) (q : Qp) (n : Nat) (x : Stalled) : State :=
  noteBuffers (setQp { s with ports := { s.ports with stalled := s.ports.stalled ++ [x] } } i (q.passed false n))

/-- A WRITE carried out: `good` is the queue pair after it, `q` the one that fails. -/
def finishWrite (s : State) (i : Nat) (req : Rdma) (data : List Byte) (q good : Qp) : State :=
  match rdmaStore s req.addr data with
  | (s, .ok) => sendRoce (setQp s i good) i req.mac 1 (.ack ((req.psn + mtuPackets q.mtu data.length - 1) % 2 ^ 24))
  | (s, st) => failQp s i req.mac q st

/-- Whether an operation of H0 has to wait: its transfers would cross a split ring, and nothing refuses it (01 R19). One on a
scratchpad or a window of a quarter that no link reaches, as in early service or after a split at bring-up, waits too: DESIGN
CHOICE (log 25). -/
def rdmaCut (s : State) (addr n : Nat) : Bool := runCut s 0 addr n && !runBusy s addr n

/-- A WRITE on a queue pair (10 R257 to R259). One seen before is acknowledged again, unless it still waits. -/
def doRdmaWrite (req : Rdma) (data : List Byte) (s : State) (i : Nat) (q : Qp) (again : Bool) : State :=
  let n := mtuPackets q.mtu data.length
  if req.rkey ≠ q.rkey then failQp s i req.mac q .range
  else if again then if pairWaits s i then s else sendRoce s i req.mac 1 (.ack req.psn)
  else if pairWaits s i || rdmaCut s req.addr data.length then holdOperation s i q n (.write i req data)
  else finishWrite s i req data q (q.passed false n)

/-- RDMA_WRITE (10 R257 to R259). -/
def execRdmaWrite (req : Rdma) (data : List Byte) (s : State) : Host.Outcome State Fault Refusal :=
  .next (roceRequest s req data.length (doRdmaWrite req data))

/-- The data of a READ: the state, the bytes and the status. -/
def rdmaLoad (s : State) (addr n : Nat) : State × List Byte × Status :=
  if !runAllowed s .outside false addr n then (refusedAccess s 1 0 addr .range, [], .range)
  else if runBusy s addr n then (s, [], .busy)
  else
    let bs := seeBytes s none addr n
    match readRun s none false false addr n with
    | (s, some w) => (badWordFault s (mkFault s 0x02 .uncorrectable (homeOf s addr)) w, [], .uncorrectable)
    | (s, none) => (s, bs, .ok)

/-- A READ carried out. -/
def finishRead (s : State) (i : Nat) (req : Rdma) (length : Nat) (q good : Qp) : State :=
  match rdmaLoad s req.addr length with
  | (s, bs, .ok) => sendRoce (setQp s i good) i req.mac (mtuPackets q.mtu length) (.data req.psn bs)
  | (s, _, st) => failQp s i req.mac q st

/-- The READ requests of a queue pair that are outstanding: those that wait, and those whose data wait for a resume. -/
def readsOutstanding (s : State) (i : Nat) : Nat :=
  (s.ports.stalled.filter fun x => match x with
    | .read k _ _ => k == i
    | _ => false).length
  + (s.ports.held.filter fun h => match h.2.2 with
    | .roce k _ _ (.data _ _) => k == i
    | _ => false).length

/-- A READ on a queue pair (10 R257, R258): with 16 outstanding it is outside the subset. One of a quarter out of service that no
link reaches waits and gets no reply: DESIGN CHOICE (log 25). -/
def doRdmaRead (req : Rdma) (length : Nat) (s : State) (i : Nat) (q : Qp) (again : Bool) : State :=
  let n := mtuPackets q.mtu length
  if req.rkey ≠ q.rkey then failQp s i req.mac q .range
  else if again ∧ pairWaits s i then s
  else if 16 ≤ readsOutstanding s i then invalidRequest s i req.mac q
  else if pairWaits s i || rdmaCut s req.addr length then holdOperation s i q n (.read i req length)
  else finishRead s i req length q (q.passed again n)

/-- RDMA_READ_REQUEST (10 R257, R258). The request is one packet; its answer takes the PSNs of its data. -/
def execRdmaReadRequest (req : Rdma) (length : Nat) (s : State) : Host.Outcome State Fault Refusal :=
  .next (roceRequest s req 0 (doRdmaRead req length))

/-- ROCE_REFUSED_OPERATION (10 R257). -/
def execRoceRefusedOperation (req : Rdma) (s : State) : Host.Outcome State Fault Refusal :=
  .next (roceRequest s req 0 fun s i q _ => invalidRequest s i req.mac q)

/-- CNP_RECEIVED (10 R260). -/
def execCnpReceived (qpn : Nat) (s : State) : Host.Outcome State Fault Refusal :=
  .next (
    if h0Receives s then
      let s := bumpH0 s 1 1
      match qpIndex qpn with
      | some i =>
        match qpOf s i with
        | some q => setQp s i { q with rate := max 1 (q.rate / 2) }
        | none => s
      | none => s
    else s)

/-- READ_RATE_RECOVERY (10 R260). -/
def execReadRateRecovery (qpn : Nat) (s : State) : Host.Outcome State Fault Refusal :=
  .next (match (qpIndex qpn).bind (qpOf s), qpIndex qpn with
    | some q, some i => setQp s i { q with rate := min 64 (q.rate + 1) }
    | _, _ => s)

/-! ### Frames (10 R255, R262) -/

/-- Whether H0 takes a frame's tag (10 R255; 14 R384 SET_NET). -/
def tagAccepted (s : State) (vlan : Option (BitVec 12)) : Bool :=
  match vlan with
  | none => true
  | some v => bit s.ports.net.vlan 15 && v.toNat == s.ports.net.vlan % 4096

/-- An IPv4 address as ::ffff:a.b.c.d. -/
def mappedIpv4 (a : BitVec 32) : BitVec 128 := BitVec.ofNat 128 (0xFFFF * 2 ^ 32 + a.toNat)

/-- A frame that the device answers when it is for an address of its own; one with another tag is dropped and counted. -/
def answerFrame (s : State) (vlan : Option (BitVec 12)) (own : Bool) (o : Out) : State :=
  if s.ports.h0State ≠ .up then s
  else if !tagAccepted s vlan then bumpH0 (bumpH0 s 1 1) 8 1
  else if own then sendH0 (bumpH0 s 1 1) s.ports.net.mgmtPrio 1 o
  else bumpH0 s 1 1

/-- ARP_REQUEST (10 R255). -/
def execArpRequest (mac : BitVec 48) (vlan : Option (BitVec 12)) (target : BitVec 32) (s : State) : Host.Outcome State Fault Refusal :=
  .next (answerFrame s vlan (decide (mappedIpv4 target = s.ports.net.ipv4)) (.arp mac target))

/-- NEIGHBOUR_SOLICITATION (10 R255). -/
def execNeighbourSolicitation (mac : BitVec 48) (vlan : Option (BitVec 12)) (target : BitVec 128) (s : State) :
    Host.Outcome State Fault Refusal :=
  .next (answerFrame s vlan (target != 0 && target == s.ports.net.ipv6) (.neighbour mac target))

/-- ICMP_ECHO (10 R255): for either address, an IPv4 one as ::ffff:a.b.c.d. -/
def execIcmpEcho (mac : BitVec 48) (vlan : Option (BitVec 12)) (target : BitVec 128) (data : List Byte) (s : State) :
    Host.Outcome State Fault Refusal :=
  .next (answerFrame s vlan (target != 0 && (target == s.ports.net.ipv6 || target == s.ports.net.ipv4)) (.echo mac target data))

/-- PFC_FRAME (10 R262). -/
def execPfcFrame (priority : Nat) (pause : Bool) (s : State) : Host.Outcome State Fault Refusal :=
  .next (
    if s.ports.h0State = .up ∧ priority < 8 then
      let s := bumpH0 (bumpH0 s 1 1) 10 1
      if s.ports.net.pfc then
        releaseHeld { s with ports := { s.ports with paused := SMap.set false s.ports.paused priority pause } }
      else s
    else s)

/-- DROPPED_FRAME (10 R255, R257). -/
def execDroppedFrame (cause : FrameDrop) (s : State) : Host.Outcome State Fault Refusal :=
  .next (
    if s.ports.h0State = .up then
      let s := bumpH0 s 1 1
      match cause with
      | .icrc => bumpH0 s 9 1
      | _ => bumpH0 s 8 1
    else s)

/-- HOST_FULL of the capability word in force (02 R56). -/
def hostFull (s : State) : Bool := bit s.mgmt.capWord.toNat 38

/-- H0 up on some lanes; a change of width is counted (10 R280). -/
def h0Up (s : State) (lanes : Nat) : State :=
  let s := if s.ports.h0Lanes = lanes then s else bumpH0 s 7 1
  { s with ports := { s.ports with h0State := .up, h0Lanes := lanes } }

/-- H0 up after a retrain at the rate of the service state: 1.6 Tb/s in full service when HOST_FULL is set and the link reaches it,
200 Gb/s otherwise (10 R256). -/
def h0Return (s : State) (fast : Bool) : State :=
  if s.ports.h0State = .training then h0Up s (if s.mgmt.service = .full ∧ hostFull s ∧ fast then 8 else 1) else s

/-- H0_RATE_RETRY (10 R256): the 1.6 Tb/s application tried again after a retrain fell back. -/
def execH0RateRetry (up : Bool) (s : State) : Host.Outcome State Fault Refusal :=
  .next (
    if up ∧ linkRuns s 0 ∧ s.mgmt.service = .full ∧ hostFull s ∧ s.ports.h0State = .up ∧ s.ports.h0Lanes = 1 then h0Up s 8 else s)

/-! ### Writes to windows (01 R33) -/

/-- FIRMWARE_SIGNAL_WRITE (01 R33), of a processor that runs. No source number is given for firmware in the record of a write
dropped (log 3). -/
def execFirmwareSignalWrite (proc quarter word : Nat) (value : BitVec 32) (s : State) : Host.Outcome State Fault Refusal :=
  .next (
    if proc < 10 ∧ quarter < 4 ∧ word < 4096 ∧ s.power.pllLocked ∧ processorRuns s proc ∧ !quarterHeld s quarter then
      sendSignal s (Config.freeBits 6 0 % 256) (processorQuarter proc) quarter word value
    else s)

/-- The status of a tile's write to a window (01 R29, R33). -/
def windowWrite (s : State) (tile ctx field : Nat) (addr : Nat) (data : List Byte) : State × Status :=
  let refused := logFault s { tileFault s 0x0B .range tile ctx field with addr := addr }
  if !runAllowed s .tile true addr data.length then (refused, .range)
  else if runBusy s addr data.length then (s, .busy)
  else
    match place s addr with
    | .quarter q off => writeEngines s (some (tile, ctx, field)) q off data
    | _ => (refused, .range)

/-- A firmware processor's write, over the quarters whose windows it touches: each takes its part, unless it is in reset, and a
part that would cross a split ring waits (01 R19, R33). -/
def firmwareRegisters (p addr : Nat) (data : List Byte) (s : State) (q : Nat) : State :=
  let part := clipWindow addr data (quarterWindow q)
  if part.2.isEmpty || quarterHeld s q then s
  else if !ringReaches s (processorQuarter p) q then
    { s with ports := { s.ports with stalled := s.ports.stalled ++ [.register p part.1 part.2] } }
  else
    let z := firmwareWrite s q part.1 part.2
    z.2.foldl (fun s st => tellWriter (.firmware p) (s, st)) z.1
where
  /-- The bytes of a write that lie in a quarter's window, with their address. -/
  clipWindow (addr : Nat) (data : List Byte) (base : Nat) : Nat × List Byte :=
    let bs := data.drop (base - addr)
    (max addr base, if base + 0x1000000 ≤ addr then [] else bs.take (base + 0x1000000 - max addr base))

/-- REGISTER_WRITE (01 R33): a tile's write through a destination in a window, which waits while it would cross a split ring; a
firmware write. -/
def execRegisterWrite (writer : Writer) (addr : Nat) (data : List Byte) (s : State) : Host.Outcome State Fault Refusal :=
  .next (match writer with
    | .tile t c =>
      let x := ctxOf s t c
      if x.owner < 16 ∧ t < 2304 ∧ c < 16 ∧ addr + data.length ≤ quarterWindow 4 ∧ windowBase ≤ addr
          ∧ !runCut s (tileQuarter t) addr data.length then
        tellWriter writer (windowWrite s t c x.owner addr data)
      else s
    | .firmware p =>
      if p < 10 ∧ processorRuns s p ∧ s.power.pllLocked then [0, 1, 2, 3].foldl (firmwareRegisters p addr data) s else s)

/-! ### What waited for a ring link (01 R19) -/

/-- A transfer that waited goes on, or still waits. An operation of a queue pair that has failed since is gone. -/
def resumeOne (s : State) (x : Stalled) : State :=
  let again := { s with ports := { s.ports with stalled := s.ports.stalled ++ [x] } }
  match x with
  | .signal src o q w v => sendSignal s src o q w v
  | .register p addr data => if processorRuns s p then [0, 1, 2, 3].foldl (firmwareRegisters p addr data) s else again
  | .write i req data =>
    match qpOf s i with
    | some q =>
      if !q.ready then s else if pairWaits s i || rdmaCut s req.addr data.length then again else finishWrite s i req data q q
    | none => s
  | .read i req length =>
    match qpOf s i with
    | some q => if !q.ready then s else if pairWaits s i || rdmaCut s req.addr length then again else finishRead s i req length q q
    | none => s

/-- Everything that waited, in its order. -/
def resumeStalled (s : State) : State :=
  noteBuffers (s.ports.stalled.foldl resumeOne { s with ports := { s.ports with stalled := [] } })

/-- RING_LINK_RETRAIN (10 R278). A split in service is recorded and calls for a package warm reset; what waited for the
link goes on (01 R19). -/
def execRingLinkRetrain (link : Nat) (maskA maskB : BitVec 18) (s : State) : Host.Outcome State Fault Refusal :=
  let r := ringOf s link
  .next (
    if link < 4 ∧ r.state = .training then
      let was := ringSplit s
      let s := setRing s link (r.retrain maskA maskB)
      let s := resumeStalled (settleLanes (if maskA = maskB then s else ringFault s link (ringWidth r.modules)))
      if ringSplit s && !was then
        let s := logFault s { mkFault s 0x0F .ok (ringQuarter link) with unitClass := 8, unitIndex := 2, detail := 9, fatal := true }
        { s with power := { s.power with warmDue := s.power.warmDue ++ [.ringSplit] } }
      else s
    else s)

end Sys2Proof.Machine
end

