-- ==== Sys2Proof/Machine/Train.lean ====
section
/-! DEFINITION. The training step (12 R320 to R347): the mow, the step record, the commit, the update engine, the journal and
its recovery. A step of these classes is whole when its command ends (log 8). -/
namespace Sys2Proof.Machine

/-! ### The mow (12 R327 to R330) -/

/-- The mow's control block (12 R328). -/
structure MowBlock where
  top     : Nat
  entries : Nat
  high    : Nat
  fulls   : Nat
  orders  : Nat
  stale   : Nat
  deriving DecidableEq, Repr

def MowBlock.parse (bs : List Byte) : MowBlock :=
  let x := leNat bs
  ⟨bits x 31 0, bits x 47 32, bits x 95 64, bits x 127 96, bits x 159 128, bits x 191 160⟩

def MowBlock.bytes (m : MowBlock) : List Byte :=
  leBytes 64 (pack [(0, m.top), (32, m.entries), (64, m.high), (96, m.fulls), (128, m.orders), (160, m.stale)])

/-- A frame entry (12 R329). -/
structure Frame where
  layer  : Nat
  gen    : Nat
  offset : Nat
  size   : Nat
  deriving DecidableEq, Repr

def Frame.parse (bs : List Byte) : Frame :=
  let x := leNat bs
  ⟨bits x 13 0, bits x 63 32, bits x 95 64, bits x 127 96⟩

def Frame.bytes (f : Frame) : List Byte := leBytes 16 (pack [(0, f.layer), (32, f.gen), (64, f.offset), (96, f.size)])

/-- The address of frame entry i, and the frame area's start and size in units of 256 bytes. -/
def frameAddr (fd : Field) (i : Nat) : Nat := fd.mowBase + 0x40 + 16 * i
def frameArea (fd : Field) : Nat := fd.mowBase + 0x10000
def frameUnits (fd : Field) : Nat := (fd.mowSize - 0x10000) / 256

/-- The mow's memory that a MOW step may touch: the control block and the frame entries. -/
def mowRuns (fd : Field) : List (Nat × Nat) := [(fd.mowBase, 0x10000)]

/-- The conditions of a MOW step: reserved operands, the mow's presence (12 R327), the descriptors, the mow's memory. -/
def mowConds (s : State) (e : Env) (reserved : Bool) (descs : List (List (Bool × Status))) : List (Bool × Status) :=
  let first := [(reserved || stepUnit e.word != 0, Status.reserved), (e.fd.mowMib == 0, .range)] ++ descs.flatten
  if first.any (·.1) then first else runConds s e true (mowRuns e.fd)

/-- The control block as it stands. -/
def mowBlock (s : State) (e : Env) : MowBlock := MowBlock.parse (seeBytes s (some e.quarter) e.fd.mowBase 64)

/-- A MOW step at its control block: it reads the block and, when every word reads well, acts (12 R330). -/
def atMow (s : State) (e : Env) (slots : List Nat) (conds : List (Bool × Status)) (reads : List (Nat × Nat)) (act : State → StepEnd) :
    StepEnd :=
  let st := Status.lowest conds
  if st ≠ .ok then .fail s st
  else if runsCut s e (mowRuns e.fd) then .block (latch s e slots)
  else
    let (s, rst) := runAccs s e (((e.fd.mowBase, 64) :: reads).map fun r => .rd r.1 r.2 true false)
    if rst ≠ .ok then .fail s rst else act s

/-- The block and an entry written, and the step's status. -/
def endMow (s : State) (e : Env) (m : MowBlock) (entry : Option (Nat × Frame)) (st : Status) : StepEnd :=
  let (s, wst) := runAccs s e ((entry.map fun p => writeAcc (frameAddr e.fd p.1) p.2.bytes).toList ++ [writeAcc e.fd.mowBase m.bytes])
  .done s (if st ≠ .ok then st else wst) []

/-- PUSH at the control block (12 R330): of both refusals the lower code (00 R13). -/
def pushMow (s : State) (e : Env) (d : Desc) : StepEnd :=
  let m := mowBlock s e
  let units := stepLo e.word / 256
  let st := Status.lowest [(d.base != frameArea e.fd + 256 * m.top, .mowOrder),
    (frameUnits e.fd < m.top + units || m.entries == 4092, .mowFull)]
  match st with
  | .ok =>
    let top := m.top + units
    endMow s e { m with top := top, entries := m.entries + 1, high := max m.high top }
      (some (m.entries, ⟨stepHi e.word, d.gen, m.top, units⟩)) .ok
  | .mowFull => endMow s e { m with fulls := satAdd 32 m.fulls 1 } none .mowFull
  | _ => endMow s e { m with orders := satAdd 32 m.orders 1 } none .mowOrder

/-- The formats of the tensors that MOW steps name (04 R109, R110, R123). -/
def mowAccepts (f : Fmt) : Bool := f != .none && f != .int32 && f != .lo16

/-- PUSH (12 R330). -/
def doPush (s : State) (e : Env) : StepEnd :=
  let w := e.word
  if stepOp w ≠ 1 then .fail s .reserved
  else
    let slots := issueSlots s e [stepD w] [] []
    let s := readSlots s e slots
    let conds := mowConds s e (stepA w != 0xFFFF || stepB w != 0xFFFF)
      [operandConds s e (stepD w) e.originD mowAccepts false, [(stepLo w == 0 || stepLo w % 256 != 0, .range)]]
    atMow s e slots conds [] fun s => pushMow s e (operand s e (stepD w) e.originD).d

/-- POP at the control block (12 R330): order before generation. -/
def popMow (s : State) (e : Env) (d : Desc) (gen : Option Nat) : StepEnd :=
  let m := mowBlock s e
  let top := Frame.parse (seeBytes s (some e.quarter) (frameAddr e.fd (m.entries - 1)) 16)
  if m.entries = 0 ∨ top.layer ≠ stepHi e.word ∨ frameArea e.fd + 256 * top.offset ≠ d.base then
    endMow s e { m with orders := satAdd 32 m.orders 1 } none .mowOrder
  else
    let stale := (gen.map (· != top.gen)).getD false
    endMow s e { m with top := m.top - top.size, entries := m.entries - 1, stale := if stale then satAdd 32 m.stale 1 else m.stale }
      none (if stale then .staleShard else .ok)

/-- POP (12 R330). -/
def doPop (s : State) (e : Env) : StepEnd :=
  let w := e.word
  let useA := stepA w != 0xFFFF
  let slots := issueSlots s e ([stepD w] ++ if useA then [stepA w] else []) [] []
  let s := readSlots s e slots
  let conds := mowConds s e (stepB w != 0xFFFF || stepLo w != 0)
    [operandConds s e (stepD w) e.originD mowAccepts false,
     if useA then operandConds s e (stepA w) e.originA mowAccepts false else []]
  let m := mowBlock s e
  atMow s e slots conds (if m.entries = 0 then [] else [(frameAddr e.fd (m.entries - 1), 16)]) fun s =>
    popMow s e (operand s e (stepD w) e.originD).d (if useA then some (operand s e (stepA w) e.originA).d.gen else none)

/-- CLEAR (12 R328, R330): HIGH_WATER starts again with TOP (log 15). -/
def doClear (s : State) (e : Env) : StepEnd :=
  let w := e.word
  let conds := mowConds s e (stepA w != 0xFFFF || stepB w != 0xFFFF || stepD w != 0xFFFF || stepHi w != 0 || stepLo w != 0) []
  atMow s e [] conds [] fun s => endMow s e { mowBlock s e with top := 0, entries := 0, high := 0 } none .ok

/-- PUSH, and the reserved MOW operations (log 1). -/
def execPush (tile ctx : Nat) (s : State) : Host.Outcome State Fault Refusal :=
  .next (runStep s tile ctx 0x0A (fun op => op == 1 || op == 0 || 4 ≤ op) doPush)
def execPop (tile ctx : Nat) (s : State) : Host.Outcome State Fault Refusal :=
  .next (runStep s tile ctx 0x0A (· == 2) doPop)
def execClear (tile ctx : Nat) (s : State) : Host.Outcome State Fault Refusal :=
  .next (runStep s tile ctx 0x0A (· == 3) doClear)

/-! ### The step record (12 R320 to R323) -/

/-- The step record (12 R320). -/
structure StepRecord where
  step      : Nat
  gen       : Nat
  state     : Nat
  decision  : Nat
  lsExp     : Nat
  good      : Nat
  lossScale : Nat
  inSumsq   : Nat
  inReplay  : Nat
  outSumsq  : Nat
  outReplay : Nat
  norm      : Nat
  deriving DecidableEq, Repr

def StepRecord.parse (bs : List Byte) : StepRecord :=
  let x := leNat bs
  ⟨bits x 31 0, bits x 63 32, bits x 65 64, bits x 67 66, bits x 79 72, bits x 95 80, bits x 127 96, bits x 159 128,
    bits x 191 160, bits x 223 192, bits x 255 224, bits x 287 256⟩

def StepRecord.bytes (r : StepRecord) : List Byte :=
  leBytes 64 (pack [(0, r.step), (32, r.gen), (64, r.state), (66, r.decision), (72, r.lsExp), (80, r.good), (96, r.lossScale),
    (128, r.inSumsq), (160, r.inReplay), (192, r.outSumsq), (224, r.outReplay), (256, r.norm)])

/-- LOSS_SCALE: 2^LS_EXP. -/
def lossScaleOf (e : Nat) : Nat := (f32Pow2 e).toNat

/-- Where the record lies: the journal of the lowest touched quarter. -/
def recordAddr (fd : Field) : Nat := fd.journalBase (fd.quarters.headD 0)
def stepRecord (s : State) (loft : Option Nat) (fd : Field) : StepRecord := StepRecord.parse (seeBytes s loft (recordAddr fd) 64)

/-- A journal's control block (12 R345). -/
structure JournalBlock where
  nextSeq  : Nat
  inUse    : Nat
  applied  : Nat
  replayed : Nat
  deriving DecidableEq, Repr

def JournalBlock.parse (bs : List Byte) : JournalBlock :=
  let x := leNat bs
  ⟨bits x 31 0, bits x 60 48, bits x 127 64, bits x 191 128⟩

def JournalBlock.bytes (j : JournalBlock) (chunks : Nat) : List Byte :=
  leBytes 64 (pack [(0, j.nextSeq), (32, chunks - 1), (48, j.inUse), (64, j.applied), (128, j.replayed)])

def journalCtl (fd : Field) (q : Nat) : Nat := fd.journalBase q + 0x40
def journalBlock (s : State) (loft : Option Nat) (fd : Field) (q : Nat) : JournalBlock :=
  JournalBlock.parse (seeBytes s loft (journalCtl fd q) 64)
/-- The chunks of a journal that are slots. -/
def slotAddrs (fd : Field) (q : Nat) : List Nat := (rangeFrom 1 (fd.journalChunks - 1)).map fun k => fd.journalBase q + 65536 * k

/-- A slot's header (12 R346). -/
structure SlotHeader where
  seq       : Nat
  step      : Nat
  valid     : Bool
  retired   : Bool
  parts     : Nat
  count     : Nat
  homeHi    : Nat
  homeLo    : Nat
  homeMom1  : Nat
  homeMom2  : Nat
  homeStb   : Nat
  homeScale : Nat
  homeMark  : Nat
  mark      : Nat
  deriving DecidableEq, Repr

def SlotHeader.parse (bs : List Byte) : SlotHeader :=
  let x := leNat bs
  ⟨bits x 31 0, bits x 63 32, bit x 64, bit x 65, bits x 70 66, bits x 92 80, bits x 137 96, bits x 179 138, bits x 221 180,
    bits x 263 222, bits x 305 264, bits x 347 306, bits x 389 348, bits x 405 390⟩

def SlotHeader.bytes (h : SlotHeader) : List Byte :=
  leBytes 256 (pack [(0, h.seq), (32, h.step), (64, b2n h.valid), (65, b2n h.retired), (66, h.parts), (80, h.count),
    (96, h.homeHi), (138, h.homeLo), (180, h.homeMom1), (222, h.homeMom2), (264, h.homeStb), (306, h.homeScale),
    (348, h.homeMark), (390, h.mark)])

def slotHeader (s : State) (loft : Option Nat) (a : Nat) : SlotHeader := SlotHeader.parse (seeBytes s loft a 256)
/-- Whether a slot is free. -/
def SlotHeader.free (h : SlotHeader) : Bool := !(h.valid && !h.retired)

/-- Whether an APPLY of a field is in flight: only one that is Blocked outlasts its command. -/
def applyInFlight (s : State) (f : Nat) : Bool :=
  s.tiles.ctxs.any fun p => p.2.state == .blocked && p.2.owner == f
    && match stepEntry s (p.1 / 16) p.2.step with
      | some e => stepClass e.word == 0x0B && stepOp e.word == 4
      | none => false

/-- The journals' control blocks and the record: what every UPDATE step may read. -/
def recordRuns (fd : Field) : List (Nat × Nat) := [(recordAddr fd, 64)]
def ctlRuns (fd : Field) : List (Nat × Nat) := fd.quarters.map fun q => (journalCtl fd q, 64)

/-- The conditions that every UPDATE step meets first: reserved operands and the journal's presence (12 R320, R322). -/
def updateConds (s : State) (e : Env) (reserved : Bool) (write : Bool) (more : List (Bool × Status)) : List (Bool × Status) :=
  let first := [(reserved || stepUnit e.word != 0, Status.reserved), (e.fd.journalChunks == 0, .range)]
  if first.any (·.1) then first ++ more else first ++ runConds s e write (recordRuns e.fd) ++ more

/-- An UPDATE step past its checks: the record (and what else it needs) read, then the state that it accepts, then its effect
(12 R322). -/
def atRecord (s : State) (e : Env) (slots : List Nat) (conds : List (Bool × Status)) (runs : List (Nat × Nat)) (accepts : State → StepRecord → Bool)
    (act : State → StepRecord → StepEnd) : StepEnd :=
  let st := Status.lowest conds
  if st ≠ .ok ∧ (st.code < Status.busy.code ∨ e.fd.journalChunks = 0) then .fail s st
  else if runsCut s e runs then .block (latch s e slots)
  else
    let (s, rst) := runAccs s e (runs.map fun r => .rd r.1 r.2 true false)
    if rst ≠ .ok then .fail s rst
    else
      let r := stepRecord s (some e.quarter) e.fd
      let st := Status.lowest ((!accepts s r, .busy) :: conds)
      if st ≠ .ok then .fail s st else act s r

/-- Whether no operand but those named is used. -/
def updateUnused (w : BitVec 128) (a b d lo : Bool) : Bool :=
  (!a && stepA w != 0xFFFF) || (!b && stepB w != 0xFFFF) || (!d && stepD w != 0xFFFF) || (!lo && stepLo w != 0) || stepHi w != 0

/-- The writes of STEP into every rounding key of a field (12 R321, R339). -/
def keyWrites (fd : Field) (step : Nat) : List Acc := fd.tiles.map fun t => writeAcc (keyAddr fd t + 4) (leBytes 4 step)
def keyRuns (fd : Field) : List (Nat × Nat) := fd.tiles.map fun t => (keyAddr fd t + 4, 4)

/-- A field record with its journals scanned or unscanned (12 R323). -/
def setScanned (s : State) (f : Nat) (v : Bool) : State :=
  match fieldOf s f with
  | some fd => { s with fields := { s.fields with fields := SMap.set none s.fields.fields f (some { fd with scanned := v }) } }
  | none => s

/-! ### INIT (12 R321, R322) -/

/-- The record that INIT leaves. -/
def StepRecord.init (r : StepRecord) (s initExp : Nat) : StepRecord :=
  { r with step := s, gen := (s + 2 ^ 32 - 1) % 2 ^ 32, state := 0, lsExp := initExp, good := 0, lossScale := lossScaleOf initExp }

/-- The writes of INIT. -/
def initAccs (s : State) (loft : Option Nat) (fd : Field) (r : StepRecord) (step : Nat) : List Acc :=
  [writeAcc (recordAddr fd) (r.init step fd.initExp).bytes]
    ++ fd.quarters.flatMap (fun q =>
      (slotAddrs fd q).map (fun a => writeAcc a (zeros 256))
        ++ [writeAcc (journalCtl fd q) ({ journalBlock s loft fd q with nextSeq := 1, inUse := 0 }.bytes fd.journalChunks)])
    ++ keyWrites fd step

def doInit (s : State) (e : Env) : StepEnd :=
  let w := e.word
  if stepOp w ≠ 1 then .fail s .reserved
  else
    let slots := e.fd.quarters.flatMap fun q => (slotAddrs e.fd q).map fun a => (a, 256)
    let conds := updateConds s e (updateUnused w false false false true) true
      (runConds s e true (ctlRuns e.fd ++ slots ++ keyRuns e.fd))
    if runsCut s e (slots ++ keyRuns e.fd) ∧ Status.lowest conds = .ok then .block (latch s e [])
    else
      atRecord s e [] conds (recordRuns e.fd ++ ctlRuns e.fd) (fun s _ => !applyInFlight s e.field) fun s r =>
        let (s, st) := runAccs s e (initAccs s (some e.quarter) e.fd r (stepLo w))
        .done (if st = .ok then setScanned s e.field true else s) st []

/-- INIT, and the reserved UPDATE operations (log 1). -/
def execInit (tile ctx : Nat) (s : State) : Host.Outcome State Fault Refusal :=
  .next (runStep s tile ctx 0x0B (fun op => op == 1 || op == 0 || 9 ≤ op) doInit)

/-! ### PREPARE (12 R336) and COMMIT (12 R338) -/

/-- The conditions on the scalar block that a step names (12 R336, R338; 07 R201). -/
def scalarConds (s : State) (e : Env) (slot : Nat) : List (Bool × Status) :=
  let sl := slotConds s e slot
  if sl.any (·.1) then sl else [(bits (leNat (slotBytes s e slot)) 255 128 != 0, .reserved)]

/-- Scalar k of a block, as a pattern. -/
def scalarOf (s : State) (e : Env) (slot k : Nat) : Nat := bits (leNat (slotBytes s e slot)) (32 * k + 31) (32 * k)

/-- PREPARE's effect (12 R336). -/
def prepare (s : State) (e : Env) (r : StepRecord) : State × Status :=
  let a := stepA e.word
  if stepLo e.word = 1 then
    runAccs s e [writeAcc (padAddr e.tile (32 * a)) (leBytes 4 r.inSumsq ++ leBytes 4 r.inReplay)]
  else
    runAccs s e [writeAcc (recordAddr e.fd)
      { r with inSumsq := scalarOf s e a 0, inReplay := scalarOf s e a 1, state := 1 }.bytes]

def doPrepare (s : State) (e : Env) : StepEnd :=
  let w := e.word
  let s := readSlot e s (stepA w)
  let conds := updateConds s e (updateUnused w true false false true || 2 ≤ stepLo w) true (scalarConds s e (stepA w))
  atRecord s e [stepA w] conds (recordRuns e.fd) (fun _ r => stepLo w == 1 || decide (r.state ≤ 1)) fun s r =>
    let (s, st) := prepare s e r
    .done s st []

def execPrepare (tile ctx : Nat) (s : State) : Host.Outcome State Fault Refusal :=
  .next (runStep s tile ctx 0x0B (· == 2) doPrepare)

/-- The decision of a commit from S and V (12 R338): DECISION and COMMIT's status. -/
def decideCommit (sumsq replay : F32) : Nat × Status :=
  if flt 0 replay ∨ isNaN replay then (2, .staleShard)
  else if !f32Finite sumsq then (1, .nonfinite)
  else (0, .ok)

/-- NORM (12 R338). -/
def commitNorm (sumsq : F32) (lsExp : Nat) : F32 :=
  if feq sumsq 0 then 0 else fmul (fmul sumsq (funcEval .rsqrt sumsq)) (f32Pow2 (-(lsExp : Int)))

/-- The record with a commit's result (12 R338). -/
def StepRecord.commit (r : StepRecord) (sumsq replay : Nat) : StepRecord :=
  { r with
    outSumsq := sumsq, outReplay := replay, state := 2
    decision := (decideCommit (BitVec.ofNat 32 sumsq) (BitVec.ofNat 32 replay)).1
    norm := (commitNorm (BitVec.ofNat 32 sumsq) r.lsExp).toNat }

/-- The fault record of a second COMMIT that differs (12 R338; 15 R398 class 0x10). -/
def commitFault (s : State) (e : Env) : State :=
  logFault s { tileFault s 0x10 .range e.tile e.ctx e.field with detail := BitVec.ofNat 512 (65536 * Status.range.code) }

/-- COMMIT's effect (12 R338). -/
def commit (s : State) (e : Env) (r : StepRecord) : StepEnd :=
  let u := scalarOf s e (stepA e.word) 0
  let v := scalarOf s e (stepA e.word) 1
  let r' := r.commit u v
  let st := (decideCommit (BitVec.ofNat 32 u) (BitVec.ofNat 32 v)).2
  let flags := [(flagNonfinite, st == .nonfinite)]
  if r.state = 1 then
    let (s, wst) := runAccs s e [writeAcc (recordAddr e.fd) r'.bytes]
    .done s (if st ≠ .ok then st else wst) flags
  else if r' = r then .done s st flags
  else .fail (commitFault s e) .range

def doCommit (s : State) (e : Env) : StepEnd :=
  let w := e.word
  let s := readSlot e s (stepA w)
  let conds := updateConds s e (updateUnused w true false false false) true (scalarConds s e (stepA w))
  atRecord s e [stepA w] conds (recordRuns e.fd) (fun _ r => r.state == 1 || r.state == 2) fun s r => commit s e r

def execCommit (tile ctx : Nat) (s : State) : Host.Outcome State Fault Refusal :=
  .next (runStep s tile ctx 0x0B (· == 3) doCommit)

/-! ### CLOSE (12 R339) -/

/-- The record that CLOSE leaves. -/
def StepRecord.close (r : StepRecord) (growth : Nat) : StepRecord :=
  let r := match r.decision with
    | 0 =>
      let up := growth ≤ r.good + 1
      { r with step := (r.step + 1) % 2 ^ 32, gen := r.step, lsExp := if up then min 40 (r.lsExp + 1) else r.lsExp
               good := if up then 0 else (r.good + 1) % 65536 }
    | 1 => { r with step := (r.step + 1) % 2 ^ 32, lsExp := r.lsExp - 1, good := 0 }
    | _ => r
  { r with lossScale := lossScaleOf r.lsExp, state := 0 }

def doClose (s : State) (e : Env) : StepEnd :=
  let conds := updateConds s e (updateUnused e.word false false false false) true
    (runConds s e true (ctlRuns e.fd ++ keyRuns e.fd))
  if runsCut s e (keyRuns e.fd) ∧ Status.lowest conds = .ok then .block (latch s e [])
  else
    atRecord s e [] conds (recordRuns e.fd ++ ctlRuns e.fd)
      (fun s r => r.state == 2 && e.fd.scanned && e.fd.quarters.all fun q => (journalBlock s (some e.quarter) e.fd q).inUse == 0) fun s r =>
        let r' := r.close e.fd.growth
        let (s, st) := runAccs s e (writeAcc (recordAddr e.fd) r'.bytes :: keyWrites e.fd r'.step)
        .done s st []

def execUpdateClose (tile ctx : Nat) (s : State) : Host.Outcome State Fault Refusal :=
  .next (runStep s tile ctx 0x0B (· == 5) doClose)

/-! ### APPLY (12 R340 to R344) -/

/-- The optimiser block (12 R341). -/
structure Optim where
  lr       : F32
  b1       : F32
  b2       : F32
  eps      : F32
  wd       : F32
  clip     : F32
  markBase : Nat
  opt      : Nat
  reserved : Bool
  deriving DecidableEq, Repr

def Optim.parse (bs : List Byte) : Optim :=
  let x := leNat bs
  let f := fun k => BitVec.ofNat 32 (bits x (32 * k + 31) (32 * k))
  ⟨f 0, f 1, f 2, f 3, f 4, f 5, bits x 233 192, bits x 235 234, bits x 255 236 != 0 || bits x 235 234 == 3⟩

/-- The largest block, and the bytes of a slot image: header and payload (12 R340, R346). -/
def blockMax : Nat := 7168
def imageBytes : Nat := 0xFD70

/-- The seven operands' formats and kinds (12 R340). -/
def applyForms : List (Fmt × Option Nat) :=
  [(.hi16, none), (.lo16, none), (.bf16, some 4), (.bf16, some 5), (.bf16, some 3), (.e5m2, some 6), (.e5m2, some 6)]

/-- APPLY's operands as read at issue. -/
structure ApplyIn where
  ops : List Operand
  opt : Optim
  stg : Operand
  c   : Nat
  o   : Nat
  deriving DecidableEq, Repr

def applyIn (s : State) (e : Env) : ApplyIn :=
  let org : Pos := ⟨e.originA.i0, 0, 0, 0⟩
  { ops := (List.range 7).map fun k => operand s e (stepA e.word + k) org
    opt := Optim.parse (slotBytes s e (stepB e.word)), stg := operand s e (stepD e.word) .zero
    c := stepLo e.word, o := e.originA.i0 }

/-- Operand k, and the first byte of its block; the block's first scale; its mark (12 R340, R342). -/
def ApplyIn.op (x : ApplyIn) (k : Nat) : Operand := x.ops.getD k ⟨Desc.parse [], .absent, none, .zero⟩
def ApplyIn.home (x : ApplyIn) (k : Nat) : Nat := (x.op k).d.bitAddr ⟨x.o, 0, 0, 0⟩ / 8
def ApplyIn.scaleHome (x : ApplyIn) (k : Nat) : Nat := (x.op k).sg.base + x.o / 64
def ApplyIn.scaleLen (x : ApplyIn) : Nat := 2 * ceilDiv x.c 128
def ApplyIn.markAddr (x : ApplyIn) : Nat := x.opt.markBase + 2 * (x.o / blockMax)
def ApplyIn.adam (x : ApplyIn) : Bool := x.opt.opt == 0

/-- The destinations of conversions, the moments: AdamW writes both, the others the first (12 R340; 06 R169). -/
def ApplyIn.moments (x : ApplyIn) : List Nat := if x.adam then [2, 3] else [2]

/-- The conditions on one of the seven operands (12 R340). A moment's scale-group descriptor may name a statistics record (04
R109; 06 R166). -/
def applyOperand (s : State) (e : Env) (k : Nat) (form : Fmt × Option Nat) : List (Bool × Status) :=
  let slot := stepA e.word + k
  let c := operandConds s e slot ⟨e.originA.i0, 0, 0, 0⟩ (· == form.1) (k == 2 || k == 3)
  if c.any (·.1) then c
  else
    let o := operand s e slot .zero
    [ ((form.2.map (· != o.d.kind)).getD false || o.d.rank != 1 || o.d.layout != 0
        || (if form.1 = .e5m2 then o.sg.group != 4 || o.sg.axis != 0 else o.sg.group != 0), .range) ]

/-- The conditions on the optimiser block and the staging area (12 R340, R341). -/
def applyBlocks (s : State) (e : Env) : List (Bool × Status) :=
  let sl := slotConds s e (stepB e.word)
  let b := Optim.parse (slotBytes s e (stepB e.word))
  let cd := operandConds s e (stepD e.word) .zero (· == .uint8) false
  let d := (operand s e (stepD e.word) .zero).d
  (if sl.any (·.1) then sl else [(b.reserved, .reserved), (b.markBase % 2 != 0, .range)])
    ++ (if cd.any (·.1) then cd
      else [(d.rank != 1 || d.layout != 0 || d.ext.i0 < imageBytes || !inPad e.tile d.base || !inPad e.tile (d.base + imageBytes - 1)
        || !runOwned s e.field d.base imageBytes, .range)])

/-- The runs that APPLY reads and writes. -/
def ApplyIn.reads (x : ApplyIn) : List (Nat × Nat) :=
  [(x.home 0, 2 * x.c), (x.home 1, 2 * x.c), (x.home 2, 2 * x.c)] ++ (if x.adam then [(x.home 3, 2 * x.c)] else [])
    ++ [(x.home 4, 2 * x.c), (x.home 5, x.c), (x.scaleHome 5, x.scaleLen)]
def ApplyIn.writes (x : ApplyIn) : List (Nat × Nat) :=
  [(x.home 0, 2 * x.c), (x.home 1, 2 * x.c), (x.home 2, 2 * x.c), (x.home 3, 2 * x.c), (x.home 6, x.c), (x.scaleHome 6, x.scaleLen),
    (x.markAddr, 2)]

/-- The conditions on the block (12 R340). -/
def applyShape (x : ApplyIn) : List (Bool × Status) :=
  let n := (x.op 0).d.ext.i0
  [ (x.ops.any (fun o => o.d.ext.i0 != n) || x.c < 1 || blockMax < x.c || x.o % blockMax != 0 || n < x.o + x.c
      || (x.c != blockMax && x.o + x.c != n), Status.range) ]

/-- The places of a block in operand k. -/
def ApplyIn.block (x : ApplyIn) (_ : Nat) : List Pos := (List.range x.c).map fun i => ⟨x.o + i, 0, 0, 0⟩

/-- The conditions on the statistics of a moment (06 R166, R169): the rounding key's, whose STEP an update carries (06 R173), and
the addresses. -/
def momentStats (s : State) (e : Env) (o : Operand) (ps : List Pos) : List (Bool × Status) :=
  if o.rec_.isNone then []
  else
    let runs := statRuns false o (recipeOf e.fd o.d.kind).history [0] (ps.map o.d.index)
    keyConds s e o.d.kind ++ runConds s e true runs ++ [(runs.any fun r => windowBase ≤ r.1, .range)]

/-- The conditions on the block and on the addresses, when the forms pass (12 R340; 04 R123). -/
def applyPlaces (s : State) (e : Env) (x : ApplyIn) : List (Bool × Status) :=
  let shape := applyShape x
  if shape.any (·.1) then shape
  else
    runConds s e false x.reads ++ runConds s e true x.writes ++ runConds s e true [(x.stg.d.base, imageBytes)]
      ++ runConds s e true [(journalCtl e.fd e.quarter, 64), (e.fd.journalBase e.quarter, e.fd.journal)]
      ++ x.moments.flatMap fun k => momentStats s e (x.op k) (x.block k)

/-- One element of a block before and after its update. -/
structure Upd where
  w1 : F32
  m1 : F32
  v1 : F32
  deriving DecidableEq, Repr

/-- sign (12 R342). -/
def fsign (x : F32) : F32 :=
  if isNaN x then f32NaN else if feq x 0 then x else if x.msb then 0xBF800000 else f32One

/-- The arithmetic of APPLY on one element (12 R342): weight, decoded gradient, moments; `a` is the gradient's factor. -/
def updateElem (b : Optim) (a w grad m v : F32) : Upd :=
  let c1 := fsub f32One b.b1
  let c2 := fsub f32One b.b2
  let g := fmul grad a
  let fin := fun (d m1 v1 : F32) =>
    (⟨fsub w (fmul b.lr (fadd d (fmul b.wd w))), m1, v1⟩ : Upd)
  if b.opt = 0 then
    let m1 := fadd (fmul b.b1 m) (fmul c1 g)
    let v1 := fadd (fmul b.b2 v) (fmul c2 (fmul g g))
    let r := if feq v1 0 then 0 else fmul v1 (funcEval .rsqrt v1)
    fin (fmul m1 (funcEval .recip (fadd r b.eps))) m1 v1
  else if b.opt = 1 then
    let m1 := fadd (fmul b.b1 m) g
    fin m1 m1 0
  else
    let d := fsign (fadd (fmul b.b1 m) (fmul c1 g))
    fin d (fadd (fmul b.b2 m) (fmul c2 g)) 0

/-- The gradient's factor a (12 R342). -/
def gradFactor (b : Optim) (r : StepRecord) : F32 :=
  let u := f32Pow2 (-(r.lsExp : Int))
  let norm := BitVec.ofNat 32 r.norm
  if flt 0 b.clip ∧ flt b.clip norm then fmul (fmul b.clip (funcEval .recip norm)) u else u

/-- The 16-bit codes of a run of c elements. -/
def codes16 (s : State) (q a c : Nat) : List Nat :=
  let bs := seeBytes s (some q) a (2 * c)
  (List.range c).map fun i => field bs (2 * i) 2

/-- The block's elements updated (12 R342). -/
def updateBlock (s : State) (e : Env) (x : ApplyIn) (r : StepRecord) : List Upd :=
  let get := fun k => codes16 s e.quarter (x.home k) x.c
  let a := gradFactor x.opt r
  let dec16 := fun c => f32OfBf16 (BitVec.ofNat 16 c)
  (List.zip (List.zip (get 0) (get 1)) (List.zip (get 4) (List.zip (get 2) (if x.adam then get 3 else List.replicate x.c 0)))).map
    fun p => updateElem x.opt a (BitVec.ofNat 32 (65536 * p.1.1 + p.1.2)) (dec16 p.2.1) (dec16 p.2.2.1) (dec16 p.2.2.2)

/-- The parts of a block's payload as bytes: HI16, LO16, MOM1, MOM2, stubble codes, stubble scales. -/
def updateParts (s : State) (e : Env) (x : ApplyIn) (us : List Upd) : List (List Byte) :=
  [ us.flatMap fun u => leBytes 2 (u.w1.toNat / 65536), us.flatMap fun u => leBytes 2 (u.w1.toNat % 65536),
    us.flatMap fun u => leBytes 2 (bf16Of u.m1).toNat, if x.adam then us.flatMap fun u => leBytes 2 (bf16Of u.v1).toNat else [],
    seeBytes s (some e.quarter) (x.home 5) x.c, seeBytes s (some e.quarter) (x.scaleHome 5) x.scaleLen ]

/-- Offsets of the parts in a slot (12 R346). -/
def partOffsets : List Nat := [0x100, 0x3900, 0x7100, 0xA900, 0xE100, 0xFD00]
/-- Room of each part. -/
def partRooms : List Nat := [14336, 14336, 14336, 14336, 7168, 112]

/-- The payload from offset 0x100: each part, and free bytes where the block leaves its room unused (log 3). -/
def payloadBytes (fresh : Nat) (parts : List (List Byte)) : List Byte :=
  (List.zip (List.range 6) (List.zip parts partRooms)).flatMap fun p =>
    p.2.1 ++ leBytes (p.2.2 - p.2.1.length) (Config.freeBits (16 + p.1) fresh)

/-- The header of a block's slot. -/
def ApplyIn.header (x : ApplyIn) (r : StepRecord) (seq : Nat) : SlotHeader :=
  { seq := seq, step := r.step, valid := true, retired := false, parts := if x.adam then 31 else 23, count := x.c
    homeHi := x.home 0, homeLo := x.home 1, homeMom1 := x.home 2, homeMom2 := x.home 3, homeStb := x.home 6
    homeScale := x.scaleHome 6, homeMark := x.markAddr, mark := r.step % 65536 }

/-- The writes of a payload's parts to their homes (12 R344 order 5, R347): part k from its bytes, where PARTS names it. -/
def homeWrites (h : SlotHeader) (parts : List (List Byte)) : List Acc :=
  let homes := [h.homeHi, h.homeLo, h.homeMom1, h.homeMom2, h.homeStb, h.homeScale]
  (List.zip (List.range 6) (List.zip homes parts)).flatMap fun p =>
    if bit h.parts (min p.1 4) then [writeAcc p.2.1 p.2.2] else []

/-- One order of APPLY, after those before it: none follows a write that failed (12 R344). -/
def applyOrder (e : Env) (z : State × Status) (accs : List Acc) : State × Status :=
  if z.2 ≠ .ok then z else runAccs z.1 e accs

/-- The orders of APPLY from its slot's taking on (12 R344 orders 2 to 7): the control block, the payload, the header, the homes, the
mark, then the header retired and the control block. -/
def journalOrders (e : Env) (ctl : Nat) (j : JournalBlock) (h : SlotHeader) (slot : Nat) (payload : List Byte) (parts : List (List Byte)) :
    List (List Acc) :=
  let taken := { j with nextSeq := (j.nextSeq + 1) % 2 ^ 32, inUse := j.inUse + 1 }
  let chunks := e.fd.journalChunks
  [ [writeAcc ctl (taken.bytes chunks)], [writeAcc (slot + 0x100) payload], [writeAcc slot h.bytes], homeWrites h parts,
    [writeAcc h.homeMark (leBytes 2 h.mark)],
    [writeAcc slot { h with retired := true }.bytes,
      writeAcc ctl ({ taken with inUse := j.inUse, applied := (j.applied + 1) % 2 ^ 64 }.bytes chunks)] ]

/-- The conversions of a block's moments (06 R169): operand k's elements. -/
def momentDone (e : Env) (s : State) (x : ApplyIn) (us : List Upd) (k : Nat) : Dest × List Done :=
  let t : Dest := ⟨x.op k, keyOf s e⟩
  (t, (List.zip (x.block k) us).map fun p => convertDone t false f32One 0 p.1 (if k = 2 then p.2.m1 else p.2.v1))

/-- The statistics of a block's moments (06 R169). -/
def momentStatistics (s0 : State) (e : Env) (x : ApplyIn) (us : List Upd) (s : State) : State × Status :=
  x.moments.foldl (fun z k =>
    let d := momentDone e s0 x us k
    let r := putStatistics z.1 e d.1 d.2 0 0
    (r.1, if z.2 = .ok then r.2 else z.2)) (s, .ok)

/-- APPLY past its checks (12 R342 to R344): the mark, the arithmetic, the staging, the slot, the orders, the statistics. Which
free slot it takes, and what the staged header holds before a slot is taken, are free (log 3). -/
def applyBlock (s : State) (e : Env) (slots : List Nat) (x : ApplyIn) (r : StepRecord) : StepEnd :=
  let (s1, mst) := runAccs s e [.rd x.markAddr 2 true false]
  if mst ≠ .ok then .fail s1 mst
  else if leNat (seeBytes s (some e.quarter) x.markAddr 2) = r.step % 65536 then .done s1 .ok []
  else
    let (s2, rst) := runAccs s1 e (x.reads.map fun y => .rd y.1 y.2 true false)
    if rst ≠ .ok then .fail s2 rst
    else
      let us := updateBlock s e x r
      let parts := updateParts s e x us
      let payload := payloadBytes s.fresh parts
      let j := journalBlock s (some e.quarter) e.fd e.quarter
      let h := x.header r j.nextSeq
      let staged := { h with seq := Config.freeBits 22 s.fresh % 2 ^ 32, valid := bit (Config.freeBits 23 s.fresh) 0
                             retired := bit (Config.freeBits 23 s.fresh) 1 }
      let (s3, sst) := runAccs { s2 with fresh := s.fresh + 1 } e [writeAcc x.stg.d.base (staged.bytes ++ payload)]
      let free := (slotAddrs e.fd e.quarter).filter fun a => (slotHeader s none a).free
      if sst ≠ .ok then .fail s3 sst
      else if free = [] then .block (latch s3 e slots)
      else
        let slot := free.getD (Config.freeBits 24 s.fresh % free.length) 0
        let (s4, st) := (journalOrders e (journalCtl e.fd e.quarter) j h slot payload parts).foldl (applyOrder e) (s3, .ok)
        let (s5, ust) := momentStatistics s e x us s4
        .done s5 (if st = .ok then ust else st) [(flagNonfinite, us.any fun u => !f32Finite u.w1)]

/-- The outcome that a committed decision gives APPLY (12 R340). -/
def applyDecision (r : StepRecord) : List (Bool × Status) :=
  [(r.decision == 1, .nonfinite), (2 ≤ r.decision, .staleShard)]

def doApply (s : State) (e : Env) : StepEnd :=
  let w := e.word
  let slots := issueSlots s e ([0, 1, 4, 5, 6].map (stepA w + ·) ++ [stepD w]) ([2, 3].map (stepA w + ·)) [stepB w]
  let s := readSlots s e slots
  let s := if (applyIn s e).moments.any fun k => ((applyIn s e).op k).rec_.isSome then readKey s e else s
  let forms := (List.zip (List.range 7) applyForms).flatMap (fun p => applyOperand s e p.1 p.2) ++ applyBlocks s e
  let x := applyIn s e
  let shape := applyShape x
  let more := if forms.any (·.1) ∨ e.fd.journalChunks = 0 then forms else applyPlaces s e x
  let touches := if forms.any (·.1) ∨ e.fd.journalChunks = 0 ∨ shape.any (·.1) then [] else [(false, x.reads), (true, x.writes)]
  let conds := updateConds s e (stepHi w != 0) true more
  let runs := recordRuns e.fd ++ [(journalCtl e.fd e.quarter, 64)]
  if Status.lowest conds = .ok ∧ runsCut s e (x.reads ++ x.writes ++ [(e.fd.journalBase e.quarter, e.fd.journal)]) then .block (latch s e slots)
  else
    noteRefused e s touches <| atRecord s e slots conds runs (fun _ r => r.state == 2 && e.fd.scanned) fun s r =>
      let st := Status.lowest (applyDecision r)
      if st ≠ .ok then .fail s st else applyBlock s e slots x r

def execApply (tile ctx : Nat) (s : State) : Host.Outcome State Fault Refusal :=
  .next (runStep s tile ctx 0x0B (· == 4) doApply)

/-! ### RECOVER (12 R347) -/

/-- The progress of a recovery. -/
structure Recovering where
  s    : State
  lost : Bool
  stop : Status
  dig  : BitVec 64
  deriving DecidableEq, Repr

/-- One access of a recovery: refused with E_RANGE or E_BUSY, or made. -/
def recoverAcc (e : Env) (z : Recovering) (acc : Acc) : Recovering :=
  if z.stop ≠ .ok then z
  else
    let st := match acc with
      | .wr bit width _ _ => Status.lowest (runConds z.s e true [(bit / 8, ceilDiv (bit % 8 + width) 8)])
      | .rd _ _ _ _ => .ok
    if st ≠ .ok then
      let touches := match acc with
        | .wr bit width _ _ => [(true, [(bit / 8, ceilDiv (bit % 8 + width) 8)])]
        | .rd _ _ _ _ => []
      { z with s := recordRefused z.s e st touches, stop := st }
    else
      let r := runAcc e ⟨z.s, z.lost, .ok, z.dig⟩ acc
      ⟨r.s, r.lost, r.stop, r.dig⟩

/-- The parts of a slot's payload, cut to its count. -/
def slotParts (s : State) (loft : Option Nat) (a : Nat) (h : SlotHeader) : List (List Byte) :=
  let n := h.count
  (List.zip partOffsets [2 * n, 2 * n, 2 * n, 2 * n, n, 2 * ceilDiv n 128]).map fun p => seeBytes s loft (a + p.1) p.2

/-- The reads of a slot: its header and the parts that PARTS names. -/
def slotReads (a : Nat) (h : SlotHeader) : List Acc :=
  let n := h.count
  .rd a 256 true false :: (List.zip (List.range 6) (List.zip partOffsets [2 * n, 2 * n, 2 * n, 2 * n, n, 2 * ceilDiv n 128])).flatMap
    fun p => if bit h.parts (min p.1 4) then [.rd (a + p.2.1) p.2.2 true false] else []

/-- One slot completed: its payload read, its homes and mark written, RETIRED set (12 R347). A write that loses bytes stops the
recovery there (log 15). -/
def recoverSlot (e : Env) (z : Recovering) (a : Nat) : Recovering :=
  if z.stop ≠ .ok then z
  else
    let h := slotHeader z.s (some e.quarter) a
    let parts := slotParts z.s (some e.quarter) a h
    let z := (slotReads a h).foldl (recoverAcc e) z
    let z := (homeWrites h parts ++ [writeAcc h.homeMark (leBytes 2 h.mark)]).foldl (recoverAcc e) z
    if z.lost ∧ z.stop = .ok then { z with stop := .uncorrectable }
    else recoverAcc e z (writeAcc a { h with retired := true }.bytes)

/-- The slots of a field's journals, journal by journal. -/
def allSlots (fd : Field) : List Nat := fd.quarters.flatMap (slotAddrs fd)

/-- A slot put in before the first of larger SEQ. -/
def insertSlot (s : State) (loft : Option Nat) (a : Nat) : List Nat → List Nat
  | [] => [a]
  | b :: bs => if (slotHeader s loft a).seq ≤ (slotHeader s loft b).seq then a :: b :: bs else b :: insertSlot s loft a bs

/-- The slots that RECOVER takes, of every journal, in increasing SEQ (12 R347). -/
def openSlots (s : State) (loft : Option Nat) (fd : Field) : List Nat :=
  ((allSlots fd).filter fun a => !(slotHeader s loft a).free).foldr (insertSlot s loft) []

/-- The largest SEQ of any slot header. -/
def topSeq (s : State) (loft : Option Nat) (fd : Field) : Nat := (allSlots fd).foldl (fun m a => max m (slotHeader s loft a).seq) 0

/-- The control block of a journal that a completed recovery leaves (12 R347). -/
def rebuildJournal (s0 : State) (e : Env) (s : State) (q : Nat) : Acc :=
  let loft := some e.quarter
  let j := journalBlock s loft e.fd q
  let done := ((slotAddrs e.fd q).filter fun a => !(slotHeader s0 loft a).free).length
  writeAcc (journalCtl e.fd q)
    ({ j with nextSeq := (topSeq s loft e.fd + 1) % 2 ^ 32, inUse := 0, replayed := (j.replayed + done) % 2 ^ 64 }.bytes
      e.fd.journalChunks)

/-- RECOVER's effect (12 R347): every header scanned, the slots completed in increasing SEQ, the journals rebuilt. One that stops
leaves the journals unscanned (12 R323). -/
def recover (s0 : State) (e : Env) : State × Status :=
  let z := ((allSlots e.fd).map fun a => Acc.rd a 256 true false).foldl (recoverAcc e) ⟨s0, false, .ok, 0⟩
  let z := if z.stop ≠ .ok then z else (openSlots z.s (some e.quarter) e.fd).foldl (recoverSlot e) z
  let z := if z.stop ≠ .ok then z else (e.fd.quarters.map (rebuildJournal s0 e z.s)).foldl (recoverAcc e) z
  let (s, st) := closeAccs e ⟨z.s, z.lost, z.stop, z.dig⟩
  (setScanned s e.field (st == .ok), st)

def doRecover (s : State) (e : Env) : StepEnd :=
  let conds := updateConds s e (updateUnused e.word false false false false) true (runConds s e true (ctlRuns e.fd))
  let homes := (openSlots s (some e.quarter) e.fd).flatMap fun a => let h := slotHeader s (some e.quarter) a
    [(h.homeHi, 2), (h.homeLo, 2), (h.homeMom1, 2), (h.homeMom2, 2), (h.homeStb, 1), (h.homeScale, 1), (h.homeMark, 2)]
  let journals := e.fd.quarters.map fun q => (e.fd.journalBase q, e.fd.journal)
  if Status.lowest conds = .ok ∧ runsCut s e (journals ++ homes) then .block (latch s e [])
  else
    atRecord s e [] conds (recordRuns e.fd ++ ctlRuns e.fd) (fun s _ => !applyInFlight s e.field) fun s _ =>
      let (s, st) := recover s e
      .done s st []

def execRecover (tile ctx : Nat) (s : State) : Host.Outcome State Fault Refusal :=
  .next (runStep s tile ctx 0x0B (· == 6) doRecover)

/-! ### TAG (12 R324) and GENCHECK (12 R325) -/

/-- The bits of a shard tag of a generation (12 R324). -/
def tagBytes (gen : Nat) : List Byte := leBytes 4 gen ++ zeros 12

/-- TAG. UPDATE is none of the classes that add origins (03 R91), yet an ORIGIN_D of the item that a bale layout does not align
ends it with E_RANGE under 03 R86: DESIGN CHOICE (log 25). -/
def doTag (s : State) (e : Env) : StepEnd :=
  let w := e.word
  let slots := issueSlots s e [stepD w] [] []
  let s := readSlots s e slots
  let cd := operandConds s e (stepD w) e.originD (fun f => f != .none && f != .int32) false
  let d := (operand s e (stepD w) e.originD).d
  let more := if cd.any (·.1) then cd else (d.base % 16 != 0 || d.layout == 2, .range) :: runConds s e true [(d.base, 16)]
  let conds := updateConds s e (updateUnused w false false true false) false more
  if Status.lowest conds = .ok ∧ runsCut s e [(d.base, 16)] then .block (latch s e slots)
  else
    noteRefused e s (if cd.any (·.1) then [] else [(true, [(d.base, 16)])]) <|
      atRecord s e slots conds (recordRuns e.fd) (fun _ _ => true) fun s r =>
      let (s, st) := runAccs s e [writeAcc d.base (tagBytes r.gen)]
      .done s st []

def execTag (tile ctx : Nat) (s : State) : Host.Outcome State Fault Refusal :=
  .next (runStep s tile ctx 0x0B (· == 7) doTag)

/-- The address of member q's tag. -/
def tagAddr (d : Desc) (q : Nat) : Nat := d.bitAddr ⟨8 * q, 0, 0, 0⟩ / 8

/-- One tag read and compared: whether any differed, whether any could not be read. -/
def checkTag (e : Env) (d : Desc) (z : State × Bool × Bool) (q : Nat) : State × Bool × Bool :=
  let bs := seeBytes z.1 (some e.quarter) (tagAddr d q) 16
  let (s, st) := runAccs z.1 e [.rd (tagAddr d q) 16 true false]
  if st ≠ .ok then (s, z.2.1, true) else (s, z.2.1 || bs != tagBytes d.gen, z.2.2)

/-- GENCHECK reads every tag (12 R325); of E_STALE_SHARD and E_UNCORRECTABLE the lower code (00 R13). -/
def doGencheck (s : State) (e : Env) : StepEnd :=
  let w := e.word
  let n := stepLo w
  let slots := issueSlots s e [stepA w] [] []
  let s := readSlots s e slots
  let ca := operandConds s e (stepA w) e.originA (fun f => f == .bf16 || f == .hi16) false
  let d := (operand s e (stepA w) e.originA).d
  let shape := ca ++ [(n < 1 || 8192 < n, Status.range)]
  let more := if shape.any (·.1) then shape
    else if d.rank ≠ 1 ∨ d.layout ≠ 0 ∨ d.ext.i0 < 8 * n then [(true, Status.range)]
    else runConds s e false [(tagAddr d 0, 16 * n)]
  let conds := updateConds s e (updateUnused w true false false true) false more
  let st := Status.lowest conds
  if st ≠ .ok then
    refuseStep s e st (if !shape.any (·.1) && decide (d.rank = 1 ∧ d.layout = 0 ∧ 8 * n ≤ d.ext.i0) then [(false, [(tagAddr d 0, 16 * n)])]
      else [])
  else if runsCut s e [(tagAddr d 0, 16 * n)] then .block (latch s e slots)
  else
    let z := (List.range n).foldl (checkTag e d) (s, false, false)
    .done z.1 (Status.lowest [(z.2.1, .staleShard), (z.2.2, .uncorrectable)]) []

def execGencheck (tile ctx : Nat) (s : State) : Host.Outcome State Fault Refusal :=
  .next (runStep s tile ctx 0x0B (· == 8) doGencheck)

end Sys2Proof.Machine
end

