-- ==== Sys2Proof/Machine/Resets.lean ====
section
/-! DEFINITION. What resets and quarantine do (03 R104, R105; 11 R288, R293, R294, R317; 15 R408 to R412): tiles, fields, compute
dies and quarters. A package warm reset stands with the boot. -/
namespace Sys2Proof.Machine

/-! ### Tiles -/

/-- A tile's array reset, at a tile reset and at field start: its weight registers take 32 rows of chaff (13 R363), and the next pass makes a stall load. -/
def resetArray (s : State) (t : Nat) : State :=
  let g := SMap.get 0 s.tiles.chaff t ^^^ powerChaff t
  let s := chaffTake s t 256
  let fresh := fun (m : SMap Region) (r : Nat) =>
    SMap.modify {} m (2 * t + r) fun x => { x with stall := true, two := false, ramp := 0, active := chaffWeights g r }
  { s with tiles := { s.tiles with
      regions := fresh (fresh s.tiles.regions 0) 1, halfMode := SMap.erase s.tiles.halfMode t } }

/-- Whether a context's step is in flight. -/
def CtxState.inFlight : CtxState → Bool
  | .running | .blocked | .sleeping => true
  | _ => false

/-- A context of a tile that is quarantined (03 R104). -/
def Ctx.quarantine (x : Ctx) : Ctx :=
  let x := if x.state.inFlight then finishCtx x .quarantined [] else x.noteStatus .quarantined
  { x with state := .quarantined, item := none, waiting := none, gleaning := false, check := none, digest := 0 }

/-- The contexts of a tile that a field owns: number and registers. One that no field owns stays Unowned in quarantine (03 R73,
R104; log 25). -/
def tileCtxs (s : State) (t : Nat) : List (Nat × Ctx) :=
  ((List.range 16).map fun c => (c, ctxOf s t c)).filter fun p => p.2.owner != 0xFF

/-- The items that the contexts of a tile hold, each with its field. -/
def heldItems (s : State) (t : Nat) : List (Nat × BitVec 512) :=
  (tileCtxs s t).filterMap fun p => p.2.item.map fun i => (p.2.owner, i)

/-- Check contexts freed of the runs that p picks; the checks those runs belong to are left undecided (15 R408). -/
def dropChecks (s : State) (p : Nat → CheckRun → Bool) : State :=
  { s with tiles := { s.tiles with checks := s.tiles.checks.filter fun c => !((c.2.map (p c.1)).getD false) } }

/-- The record of a tile quarantined (15 R398 class 0x07): causes 1 repeat, 2 pattern pack, 3 boot test. -/
def quarantineFault (s : State) (t cause : Nat) : State :=
  logFault s { mkFault s 0x07 .quarantined (tileQuarter t) with
    tile := t, div := tileDiv s t, temp := sensor s (tileQuarter t), detail := BitVec.ofNat 512 cause }

/-- Quarantine of a tile (03 R104; 15 R410; 11 R288, R317). A COLL command that a context of it has queued goes on unless the tile
is a crib tile of its group (log 25). -/
def quarantineTile (s : State) (t cause : Nat) : State :=
  if quarantined s t then s
  else
    let s := quarantineFault s t cause
    let fs := fieldsOn s t
    let back := heldItems s t
    let cs := tileCtxs s t
    let s := { s with tiles := { s.tiles with
      quarantine := SMap.set 0 s.tiles.quarantine t cause
      putBack := SMap.modify [] s.tiles.putBack t (· ++ back) } }
    let s := dropChecks s fun at_ r => at_ == t || r.tile == t
    let s := cs.foldl (fun s p => setCtx (countSleep s t p.1) t p.1 p.2.quarantine) s
    let s := (SMap.keys s.sync.barriers).foldl (fun s i =>
      if fs.contains (barrierOf s (i / 64) (i % 64)).field then
        settleBarrier (setBarrier s (i / 64) (i % 64) ((barrierOf s (i / 64) (i % 64)).leaveTile t)) (i / 64) (i % 64)
      else s) s
    let s := (SMap.keys s.colls).foldl (fun s n =>
      match groupOf s n with
      | some g => if g.desc.cribTiles.contains t then abandonGroup s n none else s
      | none => s) s
    settleLanes (resetArray s t)

/-! ### Fields (03 R105; 11 R293, R294; 15 R411, R412) -/

/-- A context of a field that resets: a wait on a unit or word ends with E_ABANDONED, and the context is unowned. -/
def Ctx.ended (x : Ctx) : Ctx :=
  let x := match x.waiting.map Waiting.cond with
    | some (.barrier _ _) => finishCtx x .abandoned (waitFlags .abandoned)
    | some (.signal _ _) => finishCtx x .abandoned (waitFlags .abandoned)
    | _ => x
  { x with owner := 0xFF, state := .unowned, item := none, waiting := none, gleaning := false, check := none, digest := 0 }

/-- A group of a field that resets: its commands end with E_ABANDONED, and its neighbours are told when `send` says so. -/
def leaveGroup (send : Bool) (s : State) (n : Nat) : State :=
  match groupOf s n with
  | some g =>
    let s := putGroup s n { g with state := .abandoned }
    let s := dropWaiting (endCommands s n .abandoned fun _ => true) g
    let s := if send then sendAbandon s g none else s
    { s with colls := SMap.erase s.colls n }
  | none => s

/-- The groups of a field. -/
def fieldGroups (s : State) (f : Nat) : List Nat :=
  (SMap.keys s.colls).filter fun n => ((groupOf s n).map fun g => g.field == f).getD false

/-- The repeat checks of a field end with outcome 7 (15 R408). -/
def endChecks (s : State) (f : Nat) : State :=
  let open_ := s.tiles.ctxs.filter fun p => p.2.owner == f && (p.2.check.map fun c => c.outcome.isNone).getD false
  let s := open_.foldl (fun s p => countOutcome s (tileQuarter (p.1 / 16)) .notCompared) s
  dropChecks s fun _ r => (ctxOf s r.tile r.ctx).owner == f

/-- The contexts, queues and items of a field end (03 R105). Its queues start from slot 0 when it starts again (log 25). -/
def endFieldWork (s : State) (f : Nat) : State :=
  let s := (s.tiles.ctxs.filter fun p => p.2.owner == f).foldl (fun s p => countSleep s (p.1 / 16) (p.1 % 16)) s
  { s with tiles := { s.tiles with
      ctxs := SMap.mapAll {} s.tiles.ctxs fun _ x => if x.owner = f then x.ended else x
      queues := s.tiles.queues.filter fun p => p.1 % 16 != f
      putBack := SMap.mapAll [] s.tiles.putBack fun _ l => l.filter fun p => p.1 != f } }

/-- The field's units and words released (11 R293). -/
def releaseSync (s : State) (f : Nat) : State :=
  { s with sync := { s.sync with
      barriers := SMap.mapAll {} s.sync.barriers fun _ b =>
        if b.field = f then { b with field := 0xFF, allocated := false, abandons := satAdd 32 b.abandons 1 } else b
      attrs := SMap.mapAll {} s.sync.attrs fun _ a => if a.field = f then { a with field := 0xFF } else a } }

/-- The field's step words and image sections removed. Its near region stays in force, so that stack memory keeps its contents (15
R412), until an image is applied (02 R47; 08 R213; log 25). -/
def removeField (s : State) (f : Nat) : State :=
  let keep := fun (m : SMap (Option StepEntry)) => m.filter fun p => (p.2.map fun e => e.field != f).getD true
  { s with tiles := { s.tiles with table := keep s.tiles.table, tableCopy := keep s.tiles.tableCopy }
           fields := { s.fields with fields := SMap.set none s.fields.fields f none } }

/-- A field reset (15 R411, R412), the crops over it apart. -/
def resetField (send : Bool) (s : State) (f : Nat) : State :=
  if (fieldOf s f).isNone then s
  else
    let s := (fieldGroups s f).foldl (leaveGroup send) (endChecks s f)
    settleLanes (removeField (clearFieldLogs (releaseSync (endFieldWork s f) f) f) f)

/-- The catch crops over a field. -/
def cropsOver (s : State) (f : Nat) : List Nat :=
  upTo 16 fun g => ((fieldOf s g).map fun fd => fd.crop && fd.host == f).getD false

/-- Field resets, each with the crops over it. -/
def resetFields (send : Bool) (s : State) (fs : List Nat) : State :=
  (fs.flatMap fun f => f :: cropsOver s f).eraseDups.foldl (resetField send) s

/-- The fields loaded. -/
def loadedFields (s : State) : List Nat := upTo 16 fun f => (fieldOf s f).isSome

/-- Whether a field has a granule on the channels of a quarter (08 R233): an interleaved region on any live channel. -/
def hasGranule (s : State) (fd : Field) (q : Nat) : Bool :=
  match fd.near with
  | some n => n == q
  | none => !(quarterLive s q).isEmpty

/-! ### Compute dies and quarters (15 R411, R412) -/

/-- Scratchpad contents and check bits of the tiles lo to hi − 1 become undefined. -/
def loseTiles (s : State) (lo hi : Nat) : State :=
  let a := padAddr lo 0
  let z := padAddr hi 0
  { s with mem := { s.mem with
      bytes := { s.mem.bytes.drop a z with zeroed := s.mem.bytes.zeroed.filter fun b => b / 8 < lo || hi ≤ b / 8, era := s.mem.bytes.era + 1 }
      flips := s.mem.flips.filter fun p => p.1 < a / 16 || z / 16 ≤ p.1 } }

/-- A compute-die reset (15 R411, R412). -/
def resetDie (s : State) (q : Nat) : State :=
  let fs := (loadedFields s).filter fun f => ((fieldOf s f).map fun fd => fd.quarters.contains q).getD false
  loseTiles (resetFields true s fs) (576 * q) (576 * q + 576)

/-- COMPUTE_DIE_RESET (15 R411; R398 class 0x0F cause 8). -/
def execComputeDieReset (quarter : Nat) (s : State) : Host.Outcome State Fault Refusal :=
  .next (if quarter < 4 ∧ (quarterOf s quarter).inService then
      let s := resetDie s quarter
      logFault s { mkFault s 0x0F .ok quarter with detail := 8, previous := true, temp := sensor s quarter }
    else s)

def setQuarter (s : State) (q : Nat) (x : Quarter) : State :=
  { s with power := { s.power with quarters := SMap.set {} s.power.quarters q x } }

/-- A quarter's registers at its reset: position 0 and no floor; levels and offsets are kept (15 R412). -/
def Quarter.reset (x : Quarter) : Quarter :=
  { x with inReset := true, ladder := 0, stackPos := 0, floor := false, hold := false, power := [], cool := 0, stackCool := 0
           warned := false, recovery := 0, warnTimes := [], filling := 0 }

/-- The ring links of a quarter's base die. -/
def ringLinks (q : Nat) : List Nat := [ringPos q, (ringPos q + 3) % 4]

/-- The ports and ring links of a quarter train again (15 R412). A link held down stays down, and a disagreement that stands
recorded counts at this retrain (10 R278). -/
def retrainQuarter (s : State) (q : Nat) : State :=
  let ports := (List.range 6).filter fun k => portQuarter k == q && (portOf s k).state != .absent
  let s := ports.foldl (fun s k => portDown false s k .training (portOf s k).modules) s
  (ringLinks q).foldl (fun s l =>
    if (ringOf s l).state = .heldDown then s else setRing s l { ringOf s l with state := .training, resends := 0 }) s

/-- A packet of a queue pair. -/
def Out.isRoce : Out → Bool
  | .roce _ _ _ _ => true
  | _ => false

/-- A quarter reset begins (15 R411, R412): it holds until the quarter's controller runs its loop again (log 8). -/
def resetQuarter (s : State) (q : Nat) : State :=
  let fs := (loadedFields s).filter fun f =>
    ((fieldOf s f).map fun fd => fd.quarters.contains q || hasGranule s fd q).getD false
  let s := loseTiles (resetFields true s fs) (576 * q) (576 * q + 576)
  let s := setLoft s q { loftOf s q with lines := [], fills := [] }
  let s := { s with mem := { s.mem with logs := s.mem.logs.filter fun p => p.1 / 16 != q } }
  let s := if q = 0 then { s with ports := { s.ports with
      qps := [], held := s.ports.held.filter fun h => !h.2.2.isRoce, stalled := s.ports.stalled.filter fun x => x.pair.isNone
      h0State := if s.ports.h0State = .up then .training else s.ports.h0State
      h0Lanes := 0 } } else s
  setQuarter (retrainQuarter s q) q (quarterOf s q).reset

/-- A package warm reset called for (15 R411). -/
def callWarm (s : State) (c : ResetCause) : State := { s with power := { s.power with warmDue := s.power.warmDue ++ [c] } }

end Sys2Proof.Machine
end

