-- ==== Sys2Proof/Machine/Repair.lean ====
section
/-! DEFINITION. Hot stacks (08 R232, R233), the patrol (09 R242), repair of stack memory (09 R243 to R246) and the summaries of
corrections (09 R240). A row of a channel stands for the internal DRAM row that holds it, which addresses do not show (log
18). -/
namespace Sys2Proof.Machine

/-! ### Temperature (08 R232, R233) -/

/-- The thermal state of a stack after a reading. -/
def Thermal.next (t : Thermal) (c : Int) : Thermal :=
  match t with
  | .normal => if 95 ≤ c then .critical else if 85 ≤ c then .tooHot else .normal
  | .tooHot => if 95 ≤ c then .critical else if c ≤ 80 then .normal else .tooHot
  | .critical => if c < 85 then .tooHot else .critical

def thermalOf (s : State) (stack : Nat) : Thermal := SMap.get .normal s.mem.thermal stack

/-- Whether a field has a granule on a stack. -/
def onStack (s : State) (fd : Field) (stack : Nat) : Bool :=
  match fd.near with
  | some q => q == stack / 4
  | none => s.mem.live.any fun c => channelStack c == stack

/-- The record of a stack that becomes Critical, for a field or for none: it follows the resets (15 R394). -/
def criticalFault (s : State) (stack : Nat) (c : Int) (field : Nat) : State :=
  logFault s { mkFault s 0x0E .busy (stack / 4) with
    previous := field != 0xFF, unitClass := 0x0F, unitIndex := 0x80 + stack, temp := c, field := field, detail := 3
    imageId := if field = 0xFF then 0 else SMap.get 0 s.fields.imageIds field }

/-- STACK_CRITICAL: the fields with granules on the stack are reset, a record for each (08 R233). -/
def enterCritical (s : State) (stack : Nat) (c : Int) : State :=
  let fs := (loadedFields s).filter fun f => ((fieldOf s f).map fun fd => onStack s fd stack).getD false
  let all := (fs.flatMap fun f => f :: cropsOver s f).eraseDups
  let s := resetFields true s fs
  if all = [] then criticalFault s stack c 0xFF else all.foldl (fun s f => criticalFault s stack c f) s

/-- Whether STACK_1500 is current on a quarter's base die, which takes the IEEE 1500 wrapper from its controller (17 R446). -/
def wrapperTaken (s : State) (q : Nat) : Bool := SMap.get 0x01 s.tap.ir (([0, 2, 6, 4] : List Nat).getD q 8) == 0x20

/-- STACK_TEMPERATURE_READ (08 R232). -/
def execStackTemperatureRead (stack : Nat) (celsius : Int) (s : State) : Host.Outcome State Fault Refusal :=
  .next (if stack < 16 ∧ (quarterOf s (stack / 4)).inService ∧ s.power.pllLocked ∧ !wrapperTaken s (stack / 4) then
      let old := thermalOf s stack
      let new := old.next celsius
      let s := { s with
        power := { s.power with temps := SMap.set 25 s.power.temps (8 + stack) celsius }
        mem := { s.mem with thermal := SMap.set .normal s.mem.thermal stack new } }
      if new = .critical ∧ old ≠ .critical then enterCritical s stack celsius else s
    else s)

/-! ### The granule of a slot (08 R210, R211) -/

/-- A near region put in before the first that starts higher. -/
def insertRegion (r : Nat × Nat × Nat) : List (Nat × Nat × Nat) → List (Nat × Nat × Nat)
  | [] => [r]
  | x :: xs => if r.2.1 < x.2.1 then r :: x :: xs else x :: insertRegion r xs

def sortedRegions (s : State) : List (Nat × Nat × Nat) := (nearRegions s).foldr insertRegion []

/-- The granule of near index i of a quarter. -/
def nearGranule : List (Nat × Nat × Nat) → Nat → Option Nat
  | [], _ => none
  | (_, g, n) :: rs, i => if i < n then some (g + i) else nearGranule rs (i - n)

/-- The granule of a stream index. -/
def streamGranule (rs : List (Nat × Nat × Nat)) (g : Nat) : Nat := rs.foldl (fun g r => if r.2.1 ≤ g then g + r.2.2 else g) g

/-- The place of a channel in a list. -/
def indexIn (c : Nat) (l : List Nat) : Nat := (l.takeWhile (· != c)).length

/-- The granule that a slot holds: the inverse of `placement`. -/
def slotGranule (s : State) (channel row : Nat) : Option Nat :=
  let back := fun (l : List Nat) => (indexIn channel l + l.length - rowHash s.fields.seed row % l.length) % l.length
  let q := channel / 128
  let g := if (nearChannels s q row).contains channel then
      let l := quarterLive s q
      nearGranule ((sortedRegions s).filter (·.1 == q)) ((rowSlots - 1 - row) * l.length + back l)
    else if (rowSet s row).contains channel then some (streamGranule (sortedRegions s) (rowStart s row + back (rowSet s row)))
    else none
  g.filter fun g => placement s g == (channel, row)

/-! ### Patrol (09 R242) -/

/-- Upsets of a granule's words: number of the word and the bits flipped. -/
def flipWords (s : State) (g : Nat) (upsets : List (Nat × BitVec 144)) : State :=
  { s with mem := { s.mem with flips := upsets.foldl (fun m u => SMap.modify 0 m (16 * g + u.1 % 16) (· ^^^ u.2)) s.mem.flips } }

/-- Whether a channel's controller reaches its stack: live, clocked, the stack in service (01 R26; 08 R233; 13 R366). -/
def channelRuns (s : State) (channel : Nat) : Bool :=
  s.mem.live.contains channel && s.power.pllLocked && !s.power.tripped && thermalOf s (channelStack channel) != .critical

/-- PATROL_READ (09 R242): the upsets that have come to a slot since it was last read, and its read. -/
def execPatrolRead (channel row : Nat) (upsets : List (Nat × BitVec 144)) (s : State) : Host.Outcome State Fault Refusal :=
  .next (
    if channelRuns s channel then
      match slotGranule s channel row with
      | some g =>
        match readRun (flipWords s g upsets) none false false (256 * g) 256 with
        | (s, some w) => badWordFault s (mkFault s 0x02 .uncorrectable (channel / 128)) w
        | (s, none) => s
      | none => s
    else s)

/-! ### Repair (09 R243 to R246) -/

/-- A retirement list entry (09 R245). -/
def retireEntry (seq kind channel page : Nat) : BitVec 64 :=
  BitVec.ofNat 64 (pack [(0, page), (21, channel), (30, kind), (32, seq % 65536)])
def entryKind (e : BitVec 64) : Nat := bits e.toNat 31 30
def entryChannel (e : BitVec 64) : Nat := bits e.toNat 29 21

/-- The SEQ of the next entry, one greater than that of the entry appended last; the first one's is free (log 3). -/
def nextSeq (m : Mem) : Nat :=
  match m.retireSeq with
  | some n => (n + 1) % 65536
  | none => Config.freeBits 26 0 % 65536

/-- An entry appended, with its record (15 R398 class 0x04). -/
def appendEntry (s : State) (kind channel page : Nat) : State :=
  let n := nextSeq s.mem
  let e := retireEntry n kind channel page
  let s := { s with mem := { s.mem with retired := s.mem.retired ++ [e], retireSeq := some n } }
  logFault s { mkFault s 0x04 .ok (channel / 128) with
    unitClass := 5, unitIndex := channel, temp := sensor s (8 + channelStack channel), detail := BitVec.ofNat 512 e.toNat }

def channelAt (s : State) (c : Nat) : Channel := SMap.get {} s.mem.channels c
def setChannel (s : State) (c : Nat) (x : Channel) : State :=
  { s with mem := { s.mem with channels := SMap.set {} s.mem.channels c x } }

/-- CHANNEL_FAILURE in service: the channel is marked for mapping out (09 R246). -/
def markChannel (s : State) (c : Nat) : State := setChannel s c { channelAt s c with marked := true }

/-- A slot's granule read, corrected and counted, and written back with its uncorrectable words poisoned (09 R240, R243, R244). -/
def rewriteSlot (channel : Nat) (s : State) (row : Nat) : State :=
  match slotGranule s channel row with
  | some g => (rangeFrom (16 * g) 16).foldl (fun s w =>
      let s := countWord s w
      let r := readWord s w
      if r.bad then poisonWord s w r.data else if r.fixed then storeWord s w r.data else s) s
  | none => s

/-- The failures of a row forgotten when it has been repaired. -/
def forgetRows (s : State) (channel : Nat) (rows : List Nat) : State :=
  { s with mem := { s.mem with rowTimes := rows.foldl (fun m r => SMap.erase m (2 ^ 24 * channel + r)) s.mem.rowTimes } }

/-- PAGE_RETIREMENT (09 R244, R246). -/
def retirePage (s : State) (channel page : Nat) : State :=
  let c := channelAt s channel
  if 96 ≤ c.spares ∨ 4096 ≤ s.mem.retired.length then markChannel s channel
  else
    let rows := rangeFrom (16 * page) 16
    let s := forgetRows (rows.foldl (rewriteSlot channel) s) channel rows
    let s := appendEntry (setChannel s channel { c with spares := c.spares + 1 }) 2 channel page
    let n := (s.mem.retired.filter fun e => entryKind e == 2 && entryChannel e == channel).length
    if 64 < n then markChannel s channel else s

/-- ROW_REPAIR (09 R243): `spares` is the count the wrapper reads, `wrapperFault` a fault not confined to one row. -/
def execRowRepair (channel row spares : Nat) (wrapperFault : Bool) (s : State) : Host.Outcome State Fault Refusal :=
  .next (
    if channelRuns s channel ∧ rowFailed s channel row ∧ (channelAt s channel).marked = false ∧ !wrapperTaken s (channel / 128) then
      if wrapperFault then markChannel s channel
      else if spares = 0 then retirePage s channel (row / 16)
      else if 4096 ≤ s.mem.retired.length then markChannel s channel
      else appendEntry (forgetRows (rewriteSlot channel s row) channel [row]) 1 channel (row / 16)
    else s)

/-! ### Summaries (09 R240) -/

/-- The record of one unit's corrections (15 R398 class 0x01): UNIT_CLASS, UNIT_INDEX, TILE and QUARTER, the words. -/
def correctedFault (s : State) (p : (Nat × Nat × Nat × Nat) × Nat) : State :=
  let (cls, index, tile, quarter) := p.1
  logFault s { mkFault s 0x01 .ok quarter with
    unitClass := cls, unitIndex := index, tile := tile
    temp := if cls = 7 then sensor s (4 + quarter) else wordTemp s p.1
    div := if tile = 0xFFF then 0 else tileDiv s tile, detail := BitVec.ofNat 512 p.2 }

/-- CORRECTED_SUMMARY (09 R240): a record for each unit of the quarter that corrected words. `ports` gives the plot ports that
corrected some, with the words of each: what the base-die network corrects on its way is nowhere in State (log 18). -/
def execCorrectedSummary (quarter : Nat) (ports : List (Nat × Nat)) (s : State) : Host.Outcome State Fault Refusal :=
  let mine := fun (p : (Nat × Nat × Nat × Nat) × Nat) => p.1.2.2.2 == quarter
  let plots := (ports.filter fun p => p.1 < 36 && 0 < p.2).map fun p => ((7, p.1, 0xFFF, quarter), p.2)
  let s' := (s.mem.corrected.filter mine ++ plots).foldl correctedFault s
  .next (if quarter < 4 then { s' with mem := { s'.mem with corrected := s'.mem.corrected.filter fun p => !mine p } } else s)

end Sys2Proof.Machine
end

