-- ==== Sys2Proof/Machine/Power.lean ====
section
/-! DEFINITION. Power, heat and the quarter loop (13 R350 to R368): budgets, ladders, distrust of telemetry, droop, supply
warnings, the junction limit and the thermal trip. -/
namespace Sys2Proof.Machine

/-! ### Budgets (13 R352, R353) -/

/-- The budgets of a quarter in milliwatts: its own, then compute die, base die, stacks, SerDes. -/
def budgetsOf (cap : Nat) (p : Split) : List Nat :=
  let b := cap * p.share
  b :: ([p.die, p.base, p.stack, p.serdes].map fun f => b * f / 1000)

/-- The cap divided under the fractions in force. -/
def spreadBudgets (s : State) : State :=
  { s with power := { s.power with quarters := [0, 1, 2, 3].foldl (fun m q =>
      SMap.modify {} m q fun x => { x with budgets := budgetsOf s.power.cap (SMap.get {} s.fields.splits q) }) s.power.quarters } }

/-! ### The loop (13 R355 to R359) -/

/-- The events of an iteration weighed with the energies of the quarter's dies: picojoules in 100 µs, as milliwatts (13 R358). -/
def eventPower (s : State) (q d : Nat) (events : List Nat) : Nat :=
  ((List.range (min 16 events.length)).map fun e =>
    events.getD e 0 * SMap.get 0 s.mgmt.fuses.energies (64 * q + 16 * d + e)).sum / 100000

/-- The temperature that a domain leaks at: of its die, or of the hottest of the quarter's stacks. -/
def domainTemp (s : State) (q : Nat) (r : LoopReading) (d : Nat) : Int :=
  match d with
  | 0 => r.hotC
  | 2 => [1, 2, 3].foldl (fun t k => max t (sensor s (8 + 4 * q + k))) (sensor s (8 + 4 * q))
  | _ => r.hotB

/-- The activity estimate of a domain for one iteration, in milliwatts: its events and its leakage (13 R358). -/
def estimateOf (s : State) (q : Nat) (r : LoopReading) (d : Nat) : Nat :=
  eventPower s q d (r.events.getD d []) + Config.leakage (4 * q + d) (domainTemp s q r d) (r.volts.getD d 0)

/-- Domain d's sum over the iterations kept, measured or estimated. -/
def domainSum (hist : List (List Nat × List Nat)) (estimated : Bool) (d : Nat) : Nat :=
  (hist.map fun h => (if estimated then h.2 else h.1).getD d 0).sum

/-- All domains' sum. -/
def quarterSum (hist : List (List Nat × List Nat)) (estimated : Bool) : Nat :=
  ([0, 1, 2, 3].map (domainSum hist estimated)).sum

/-- A domain's measured power in an iteration: a reading that is missing leaves the latest one in use, or the estimate before
the first (13 R357, R359; log 22). -/
def usedReading (x : Quarter) (r : LoopReading) (estimate : Nat → Nat) (d : Nat) : Nat :=
  match r.measured.getD d none with
  | some m => m
  | none => ((x.power.head?).bind fun h => h.1[d]?).getD (estimate d)

/-- The last ten iterations with this one. -/
def Quarter.sample (x : Quarter) (r : LoopReading) (estimate : Nat → Nat) : Quarter :=
  let m := [0, 1, 2, 3].map (usedReading x r estimate)
  { x with power := ((m, [0, 1, 2, 3].map estimate) :: x.power).take 10 }

/-- How far two powers lie apart. -/
def distance (m e : Nat) : Nat := (m - e) + (e - m)

/-- Domains whose reading is missing or whose average differs from its estimate by more than 25 % of the domain's budget (log
22). -/
def railsApart (x : Quarter) (r : LoopReading) : Nat :=
  maskOf 4 fun d =>
    (r.measured.getD d none).isNone
      || decide (10 * x.budgets.getD (d + 1) 0 < 4 * distance (domainSum x.power false d) (domainSum x.power true d))

/-- Whether measured and estimated P_q, averages over ten iterations, lie more than a fraction of B_n apart (13 R359). -/
def apart (x : Quarter) (num den : Nat) : Bool :=
  decide (num * (x.budgets.getD 0 0) * 10 < den * distance (quarterSum x.power false) (quarterSum x.power true))

/-- Agreement and disagreement followed: distrust after more than 10 ms, trust again after 1 s (13 R359). -/
def trustStep (s : State) (q : Nat) (x : Quarter) (r : LoopReading) : State × Quarter :=
  let missing := [0, 1, 2, 3].any fun d => (r.measured.getD d none).isNone
  let x := { x with
    disagree := if missing || apart x 25 100 then x.disagree + 1 else 0
    agree := if missing || apart x 10 100 then 0 else x.agree + 1 }
  if !x.distrust && 100 < x.disagree then
    (logFault s { mkFault s 0x0D .ok q with detail := BitVec.ofNat 512 (railsApart x r) }, { x with distrust := true, agree := 0 })
  else if x.distrust && 10000 ≤ x.agree then (logFault s (mkFault s 0x0D .ok q), { x with distrust := false, disagree := 0 })
  else (s, x)

/-- A budget as the loop uses it, times the ten iterations of the average (13 R359). -/
def Quarter.limit (x : Quarter) (i : Nat) : Nat :=
  10 * (if x.distrust then x.budgets.getD i 0 * 8 / 10 else x.budgets.getD i 0)

/-- The divider of a tile with its quarter at another ladder position (13 R350). -/
def divAt (s : State) (q t pos : Nat) : Nat := tileDiv (setQuarter s q { quarterOf s q with ladder := pos }) t

/-- The occupied plots of a quarter. -/
def occupiedPlots (s : State) (q : Nat) : List Nat :=
  (upTo 36 fun p => (s.fields.fields.any fun f => (f.2.map fun fd => bit fd.plots.toNat (36 * q + p)).getD false)).map (36 * q + ·)

/-- Whether moving from position a to b changes the divider or the issue of an occupied tile (13 R357). -/
def moveMatters (s : State) (q a b : Nat) : Bool :=
  4 ≤ b || (occupiedPlots s q).any fun p => (plotTiles p).any fun t => divAt s q t a != divAt s q t b

/-- The next slower position. -/
def slower (s : State) (q pos : Nat) : Nat :=
  if 10 ≤ pos then 10 else ((rangeFrom (pos + 1) (10 - pos)).find? (moveMatters s q pos)).getD 10

/-- The fastest position of a quarter (13 R362). -/
def Quarter.fastest (x : Quarter) : Nat := if x.floor then 1 else 0

/-- The power of a domain over the average, from measurement or from the estimate. -/
def Quarter.drawn (x : Quarter) (d : Nat) : Nat := domainSum x.power x.distrust d
def Quarter.drawnAll (x : Quarter) : Nat := quarterSum x.power x.distrust

/-- Whether a budget is exceeded that moves the ladder slower (13 R357). -/
def Quarter.exceeds (x : Quarter) : Bool :=
  decide (x.limit 0 < x.drawnAll) || decide (x.limit 1 < x.drawn 0) || decide (x.limit 2 < x.drawn 1)

/-- Whether every budget holds below 95 % (13 R357). -/
def Quarter.eased (x : Quarter) : Bool :=
  decide (100 * x.drawnAll < 95 * x.limit 0)
    && [0, 1, 2, 3].all fun d => decide (100 * x.drawn d < 95 * x.limit (d + 1))

/-- The compute and base die ladder's move. -/
def moveLadder (s : State) (q : Nat) (x : Quarter) (hot : Bool) : State × Quarter :=
  if x.hold then (s, x)
  else if x.exceeds || hot then
    let next := slower s q x.ladder
    if x.ladder = 10 ∧ x.exceeds ∧ !x.overRecord then (logFault s (mkFault s 0x0D .ok q), { x with overRecord := true })
    else (s, { x with ladder := next })
  else if 10 ≤ x.cool ∧ x.fastest < x.ladder then (s, { x with ladder := x.ladder - 1 })
  else (s, x)

/-- The stack ladder's move (13 R357). -/
def Quarter.moveStacks (x : Quarter) : Quarter :=
  if x.hold then x
  else if x.limit 3 < x.drawn 2 then { x with stackPos := min 6 (x.stackPos + 1) }
  else if 10 ≤ x.stackCool then { x with stackPos := x.stackPos - 1 }
  else x

/-- One iteration of the loop of a quarter in service (13 R357 to R359). Nothing moves while a controller that restarted fills its
average (13 R367). -/
def loopStep (s : State) (q : Nat) (r : LoopReading) : State :=
  let s := { s with power := { s.power with temps := SMap.set 25 (SMap.set 25 s.power.temps q r.hotC) (4 + q) r.hotB } }
  let (s, x) := trustStep s q ((quarterOf s q).sample r (estimateOf s q r)) r
  if 0 < x.filling then setQuarter s q { x with filling := x.filling - 1 }
  else
    let x := { x with
      cool := if x.eased && r.hotC < 97 && r.hotB < 97 then x.cool + 1 else 0
      stackCool := if 100 * x.drawn 2 < 95 * x.limit 3 then x.stackCool + 1 else 0 }
    let (s, x) := moveLadder s q x (decide (100 ≤ r.hotC) || decide (100 ≤ r.hotB))
    setQuarter s q x.moveStacks

/-! ### Droop and supply (13 R361, R362) -/

/-- DROOP (13 R361). -/
def execDroop (plot : Nat) (s : State) : Host.Outcome State Fault Refusal :=
  .next (if plot < 144 ∧ (quarterOf s (plotQuarter plot)).inService then
      { s with tiles := { s.tiles with droop := SMap.set false s.tiles.droop plot true } }
    else s)

/-- DROOP_RECOVERY (13 R361). -/
def execDroopRecovery (plot : Nat) (s : State) : Host.Outcome State Fault Refusal :=
  .next { s with tiles := { s.tiles with droop := SMap.set false s.tiles.droop plot false } }

/-- sclk ticks in a second. -/
def secondTicks : Nat := 100000000

/-- The warnings of the last second. -/
def recentWarnings (s : State) (x : Quarter) : List Nat := x.warnTimes.filter fun t => s.power.sclk < t + secondTicks

/-- The warning floor that a quarter's controller takes after more than 8 warnings within a second (13 R362; log 22). -/
def takeFloor (s : State) (q : Nat) : State :=
  let x := quarterOf s q
  if processorRuns s (1 + q) ∧ !x.floor ∧ 8 < (recentWarnings s x).length then
    logFault (setQuarter s q { x with floor := true, ladder := max 1 x.ladder }) (mkFault s 0x0D .ok q)
  else s

/-- SUPPLY_WARNING (13 R362). -/
def execSupplyWarning (quarter rail : Nat) (s : State) : Host.Outcome State Fault Refusal :=
  .next (
    if quarter < 4 ∧ rail < 2 ∧ (quarterOf s quarter).inService then
      let x := quarterOf s quarter
      takeFloor (setQuarter s quarter { x with
        warned := true, recovery := 10, warnings := x.warnings + 1, warnRails := x.warnRails ||| 2 ^ rail
        warnTimes := recentWarnings s x ++ [s.power.sclk] }) quarter
    else s)

/-- WARNING_RECOVERY_STEP (13 R362). -/
def execWarningRecoveryStep (quarter : Nat) (s : State) : Host.Outcome State Fault Refusal :=
  let x := quarterOf s quarter
  .next (
    if quarter < 4 ∧ x.warned then
      let r := x.recovery - 1
      setQuarter s quarter (if r ≤ x.ladder then { x with warned := false, recovery := 0 } else { x with recovery := r })
    else s)

/-- WARNING_SUMMARY (13 R362). -/
def execWarningSummary (quarter : Nat) (s : State) : Host.Outcome State Fault Refusal :=
  let x := quarterOf s quarter
  .next (
    if quarter < 4 ∧ 0 < x.warnings ∧ processorRuns s (1 + quarter) then
      let s := logFault s { mkFault s 0x0D .ok quarter with
        detail := BitVec.ofNat 512 (x.warnRails + min 65535 x.warnings <<< 16) }
      takeFloor (setQuarter s quarter { x with warnings := 0, warnRails := 0 }) quarter
    else s)

/-! ### Heat (13 R365, R366) -/

/-- A sensor's number: 0 to 35 the plots of a compute die, 0x40 to 0x4F those of a base die (13 R365; 15 R397). -/
def isSensor (n : Nat) : Bool := decide (n < 36) || (decide (0x40 ≤ n) && decide (n < 0x50))

/-- The reading of a sensor kept: plot 0 to 35 of a compute die, 0x40 + sensor on a base die (15 R397). -/
def noteTemp (s : State) (quarter sensor : Nat) (c : Int) : State :=
  { s with power := { s.power with temps := SMap.set 25 s.power.temps (if sensor < 0x40 then quarter else 4 + quarter) c } }

/-- The record of a sensor's event: 1 junction limit, 2 trip (15 R398 class 0x0E). -/
def heatFault (s : State) (quarter sensor : Nat) (c : Int) (what : Nat) : State :=
  logFault s { mkFault s 0x0E .ok quarter with
    unitClass := 0x0F, unitIndex := sensor, temp := c, detail := BitVec.ofNat 512 what, fatal := what == 2, previous := what == 2 }

/-- JUNCTION_LIMIT (13 R365). -/
def execJunctionLimit (quarter sensor : Nat) (celsius : Int) (s : State) : Host.Outcome State Fault Refusal :=
  .next (
    if quarter < 4 ∧ isSensor sensor ∧ (quarterOf s quarter).inService ∧ 105 ≤ celsius then
      let s := heatFault (noteTemp s quarter sensor celsius) quarter sensor celsius 1
      setQuarter s quarter { quarterOf s quarter with ladder := 10, stackPos := 6, hold := true, cool := 0, stackCool := 0 }
    else s)

/-- JUNCTION_HOLD_RELEASE (13 R365): the latest readings lie below 100 °C too. -/
def execJunctionHoldRelease (quarter : Nat) (s : State) : Host.Outcome State Fault Refusal :=
  .next (
    if quarter < 4 ∧ sensor s quarter < 100 ∧ sensor s (4 + quarter) < 100 then
      setQuarter s quarter { quarterOf s quarter with hold := false }
    else s)

/-- THERMAL_TRIP (13 R366). -/
def execThermalTrip (quarter sensor : Nat) (celsius : Int) (s : State) : Host.Outcome State Fault Refusal :=
  .next (
    if quarter < 4 ∧ isSensor sensor ∧ (quarterOf s quarter).inService ∧ 110 ≤ celsius ∧ s.power.tripped = false then
      let s := noteTemp s quarter sensor celsius
      let s := { s with power := { s.power with tripped := true }, out := .thermtrip true :: s.out }
      heatFault (resetFields true s (loadedFields s)) quarter sensor celsius 2
    else s)

end Sys2Proof.Machine
end

