-- ==== Sys2Proof/Machine/Sha.lean ====
section
/-! DEFINITION. SHA-256 (FIPS 180-4) and the verification of HSS signatures (RFC 8554; NIST SP 800-208), which 02 R60, 14 R372, 14
R390, 14 R392, 15 R400 and 16 R430 name. All numbers in them are big-endian. -/
namespace Sys2Proof.Machine

/-! ### SHA-256 -/

/-- The n big-endian bytes of a number. -/
def beBytes (n x : Nat) : List Byte := (leBytes n x).reverse
/-- The big-endian number of bytes. -/
def beNat (bs : List Byte) : Nat := leNat bs.reverse

/-- The round constants. -/
def shaConstants : List (BitVec 32) :=
  [0x428a2f98, 0x71374491, 0xb5c0fbcf, 0xe9b5dba5, 0x3956c25b, 0x59f111f1, 0x923f82a4, 0xab1c5ed5,
   0xd807aa98, 0x12835b01, 0x243185be, 0x550c7dc3, 0x72be5d74, 0x80deb1fe, 0x9bdc06a7, 0xc19bf174,
   0xe49b69c1, 0xefbe4786, 0x0fc19dc6, 0x240ca1cc, 0x2de92c6f, 0x4a7484aa, 0x5cb0a9dc, 0x76f988da,
   0x983e5152, 0xa831c66d, 0xb00327c8, 0xbf597fc7, 0xc6e00bf3, 0xd5a79147, 0x06ca6351, 0x14292967]
  ++ [0x27b70a85, 0x2e1b2138, 0x4d2c6dfc, 0x53380d13, 0x650a7354, 0x766a0abb, 0x81c2c92e, 0x92722c85,
   0xa2bfe8a1, 0xa81a664b, 0xc24b8b70, 0xc76c51a3, 0xd192e819, 0xd6990624, 0xf40e3585, 0x106aa070,
   0x19a4c116, 0x1e376c08, 0x2748774c, 0x34b0bcb5, 0x391c0cb3, 0x4ed8aa4a, 0x5b9cca4f, 0x682e6ff3,
   0x748f82ee, 0x78a5636f, 0x84c87814, 0x8cc70208, 0x90befffa, 0xa4506ceb, 0xbef9a3f7, 0xc67178f2]

/-- The eight working variables. -/
structure ShaVars where
  a : BitVec 32
  b : BitVec 32
  c : BitVec 32
  d : BitVec 32
  e : BitVec 32
  f : BitVec 32
  g : BitVec 32
  h : BitVec 32
  deriving DecidableEq, Repr

/-- The initial hash value. -/
def shaStart : ShaVars :=
  ⟨0x6a09e667, 0xbb67ae85, 0x3c6ef372, 0xa54ff53a, 0x510e527f, 0x9b05688c, 0x1f83d9ab, 0x5be0cd19⟩

/-- One round with its constant and schedule word. -/
def shaRound (v : ShaVars) (k : BitVec 32 × BitVec 32) : ShaVars :=
  let s1 := v.e.rotateRight 6 ^^^ v.e.rotateRight 11 ^^^ v.e.rotateRight 25
  let ch := (v.e &&& v.f) ^^^ (~~~v.e &&& v.g)
  let t1 := v.h + s1 + ch + k.1 + k.2
  let s0 := v.a.rotateRight 2 ^^^ v.a.rotateRight 13 ^^^ v.a.rotateRight 22
  let maj := (v.a &&& v.b) ^^^ (v.a &&& v.c) ^^^ (v.b &&& v.c)
  ⟨t1 + s0 + maj, v.a, v.b, v.c, v.d + t1, v.e, v.f, v.g⟩

/-- The schedule's words, newest first, with one more. -/
def shaExtend (ws : List (BitVec 32)) : List (BitVec 32) :=
  let at_ := fun i => ws.getD i 0
  let s0 := fun (x : BitVec 32) => x.rotateRight 7 ^^^ x.rotateRight 18 ^^^ x >>> 3
  let s1 := fun (x : BitVec 32) => x.rotateRight 17 ^^^ x.rotateRight 19 ^^^ x >>> 10
  (s1 (at_ 1) + at_ 6 + s0 (at_ 14) + at_ 15) :: ws

/-- The schedule of a block of 64 bytes. -/
def shaSchedule (block : List Byte) : List (BitVec 32) :=
  let first := (List.range 16).map fun i => BitVec.ofNat 32 (beNat ((block.drop (4 * i)).take 4))
  ((List.range 48).foldl (fun ws _ => shaExtend ws) first.reverse).reverse

/-- A block taken into the hash value. -/
def shaBlock (v : ShaVars) (block : List Byte) : ShaVars :=
  let w := (List.zip shaConstants (shaSchedule block)).foldl shaRound v
  ⟨v.a + w.a, v.b + w.b, v.c + w.c, v.d + w.d, v.e + w.e, v.f + w.f, v.g + w.g, v.h + w.h⟩

/-- n blocks taken in order. -/
def shaBlocks (v : ShaVars) (bs : List Byte) : Nat → ShaVars
  | 0 => v
  | n + 1 => shaBlocks (shaBlock v (bs.take 64)) (bs.drop 64) n

/-- The 32 bytes of the SHA-256 digest of a message. -/
def shaBytes (m : List Byte) : List Byte :=
  let padded := m ++ [0x80] ++ zeros ((119 - m.length % 64) % 64) ++ beBytes 8 (8 * m.length)
  let v := shaBlocks shaStart padded (padded.length / 64)
  [v.a, v.b, v.c, v.d, v.e, v.f, v.g, v.h].flatMap fun x => beBytes 4 x.toNat

/-- The digest as the number that its bytes spell little-endian. -/
def sha256 (m : List Byte) : BitVec 256 := BitVec.ofNat 256 (leNat (shaBytes m))

/-! ### LM-OTS (RFC 8554 section 4) -/

/-- An LM-OTS parameter set over SHA-256 with n = 32: its type code, w, p and ls. -/
structure OtsSet where
  code : Nat
  w    : Nat
  p    : Nat
  ls   : Nat
  deriving DecidableEq, Repr

/-- LMOTS_SHA256_N32_W4 and LMOTS_SHA256_N32_W8. -/
def otsW4 : OtsSet := ⟨3, 4, 67, 4⟩
def otsW8 : OtsSet := ⟨4, 8, 34, 0⟩

/-- Digit i of a string, in base 2^w. -/
def otsDigit (w : Nat) (bs : List Byte) (i : Nat) : Nat :=
  (bs.getD (i * w / 8) 0).toNat / 2 ^ (8 - w * (i % (8 / w) + 1)) % 2 ^ w

/-- A digest with its checksum. -/
def otsCheck (o : OtsSet) (q : List Byte) : List Byte :=
  q ++ beBytes 2 (((List.range (256 / o.w)).map fun i => 2 ^ o.w - 1 - otsDigit o.w q i).sum * 2 ^ o.ls)

/-- A chain of a signature continued from digit j, n times. -/
def otsChain (head : List Byte) : Nat → Nat → List Byte → List Byte
  | 0, _, x => x
  | n + 1, j, x => otsChain head n (j + 1) (shaBytes (head ++ beBytes 1 j ++ x))

/-- The public key candidate of a signature's bytes, its type taken off: the randomiser C and the p chains. -/
def otsCandidate (o : OtsSet) (id q msg sig : List Byte) : List Byte :=
  let digest := otsCheck o (shaBytes (id ++ q ++ beBytes 2 0x8181 ++ sig.take 32 ++ msg))
  let chains := (List.range o.p).flatMap fun i =>
    let a := otsDigit o.w digest i
    otsChain (id ++ q ++ beBytes 2 i) (2 ^ o.w - 1 - a) a ((sig.drop (32 + 32 * i)).take 32)
  shaBytes (id ++ q ++ beBytes 2 0x8080 ++ chains)

/-! ### LMS and HSS (RFC 8554 sections 5 and 6) -/

/-- LMS parameter sets over SHA-256 with m = 32: the type code of a height. -/
def lmsHeight : Nat → Option Nat
  | 5 => some 5 | 6 => some 10 | 7 => some 15 | 8 => some 20 | 9 => some 25 | _ => none
def otsOf : Nat → Option OtsSet
  | 3 => some otsW4 | 4 => some otsW8 | _ => none

/-- The path from a leaf up: node number and value. -/
def lmsUp (id : List Byte) (node : Nat × List Byte) (sibling : List Byte) : Nat × List Byte :=
  let parent := node.1 / 2
  let head := id ++ beBytes 4 parent ++ beBytes 2 0x8383
  (parent, shaBytes (head ++ if node.1 % 2 = 1 then sibling ++ node.2 else node.2 ++ sibling))

/-- Parts of an LMS public key: type, LM-OTS type, identifier, root. -/
def lmsType (key : List Byte) : Nat := beNat (key.take 4)
def lmsOts (key : List Byte) : Nat := beNat ((key.drop 4).take 4)

/-- Bytes of an LMS signature under a public key of known types. -/
def lmsLength (h : Nat) (o : OtsSet) : Nat := 8 + 32 * (o.p + 1) + 4 + 32 * h

/-- The root that an LMS signature of a message leads to, in a tree of height h and an identifier. -/
def lmsRoot (id : List Byte) (h : Nat) (o : OtsSet) (msg sig : List Byte) : List Byte :=
  let leaf := beNat (sig.take 4)
  let node := shaBytes (id ++ beBytes 4 (2 ^ h + leaf) ++ beBytes 2 0x8282 ++ otsCandidate o id (sig.take 4) msg (sig.drop 8))
  let path := (List.range h).map fun i => (sig.drop (8 + 32 * (o.p + 1) + 4 + 32 * i)).take 32
  (path.foldl (lmsUp id) (2 ^ h + leaf, node)).2

/-- An LMS signature verified. -/
def lmsVerify (key msg sig : List Byte) : Bool :=
  match lmsHeight (lmsType key), otsOf (lmsOts key) with
  | some h, some o =>
    key.length == 56 && sig.length == lmsLength h o && beNat ((sig.drop 4).take 4) == o.code
      && beNat ((sig.drop (8 + 32 * (o.p + 1))).take 4) == lmsType key && decide (beNat (sig.take 4) < 2 ^ h)
      && lmsRoot ((key.drop 8).take 16) h o msg sig == (key.drop 24).take 32
  | _, _ => false

/-- What a signature may use: its most levels, and the types of its trees and one-time signatures. -/
structure HssRule where
  levels  : Nat
  heights : List Nat
  windows : List Nat
  deriving DecidableEq, Repr

/-- Whether an LMS public key's types are among a rule's. -/
def HssRule.allows (r : HssRule) (key : List Byte) : Bool :=
  ((lmsHeight (lmsType key)).map r.heights.contains).getD false && ((otsOf (lmsOts key)).map fun o => r.windows.contains o.w).getD false

/-- The levels of a signature below a key: each signed public key is verified, and the last one verifies the message. -/
def hssLevels (r : HssRule) (msg : List Byte) : Nat → List Byte → List Byte → Bool
  | 0, key, sig => r.allows key && lmsVerify key msg sig
  | n + 1, key, sig =>
    match lmsHeight (lmsType key), otsOf (lmsOts key) with
    | some h, some o =>
      let len := lmsLength h o
      let next := (sig.drop len).take 56
      r.allows key && lmsVerify key next (sig.take len) && hssLevels r msg n next (sig.drop (len + 56))
    | _, _ => false

/-- The length of a signature of some levels below a key, as the types of its keys make it. -/
def hssSize : Nat → List Byte → List Byte → Nat
  | n, key, sig =>
    match lmsHeight (lmsType key), otsOf (lmsOts key) with
    | some h, some o =>
      match n with
      | 0 => lmsLength h o
      | n + 1 =>
        let rest := sig.drop (lmsLength h o)
        lmsLength h o + 56 + hssSize n (rest.take 56) (rest.drop 56)
    | _, _ => 0

/-- The length of the HSS signature that stands at the front of some bytes, under a public key of 60 bytes of at most two levels. -/
def hssLength (key bs : List Byte) : Nat := 4 + hssSize (min 2 (beNat (key.take 4)) - 1) (key.drop 4) (bs.drop 4)

/-- The 60 bytes of an HSS public key: levels, LMS type, LM-OTS type, identifier and root. -/
def hssKey (levels lms ots : Nat) (id : BitVec 128) (root : BitVec 256) : List Byte :=
  beBytes 4 levels ++ beBytes 4 lms ++ beBytes 4 ots ++ leBytes 16 id.toNat ++ leBytes 32 root.toNat

/-- An HSS signature verified under a public key of 60 bytes. -/
def hssVerify (r : HssRule) (key msg sig : List Byte) : Bool :=
  let levels := beNat (key.take 4)
  key.length == 60 && decide (1 ≤ levels) && decide (levels ≤ r.levels) && beNat (sig.take 4) == levels - 1
    && hssLevels r msg (levels - 1) (key.drop 4) (sig.drop 4)

end Sys2Proof.Machine
end

