-- ==== Sys2Proof/Machine/Image.lean ====
section
/-! DEFINITION. Ruper images: their layout (02 R36 to R55), validation in six stages (02 R58 to R60; 03 R76; 07 R184; 11 R287) and
what applying one does (02 R61 to R67). -/
namespace Sys2Proof.Machine

/-! ### Layout (02 R37 to R40) -/

/-- A section with its table entry. -/
structure Section where
  type   : Nat
  field  : Nat
  off    : Nat
  len    : Nat
  count  : Nat
  spare  : Nat
  body   : List Byte
  deriving DecidableEq, Repr

/-- An image as staged: its bytes with the signature block, and the header's 1,024 bits. -/
structure Img where
  bytes : List Byte
  head  : Nat
  secs  : List Section
  deriving DecidableEq, Repr

def Img.length (i : Img) : Nat := bits i.head 95 64
def Img.sectionCount (i : Img) : Nat := bits i.head 111 96
def Img.sigLength (i : Img) : Nat := bits i.head 351 320
def Img.signed (i : Img) : Bool := bit i.head 48
def Img.partial_ (i : Img) : Bool := bit i.head 49
def Img.target (i : Img) : Nat := bits i.head 255 192
def Img.id (i : Img) : BitVec 64 := BitVec.ofNat 64 (bits i.head 319 256)
/-- Bytes 0 to IMAGE_LENGTH − 1, and the signature block. -/
def Img.body (i : Img) : List Byte := i.bytes.take i.length
def Img.signature (i : Img) : List Byte := (i.bytes.drop i.length).take i.sigLength

def Section.parse (bs : List Byte) (n : Nat) : Section :=
  let e := Machine.field bs (128 + 32 * n) 32
  let off := bits e 63 32
  let len := bits e 95 64
  ⟨bits e 15 0, bits e 23 16, off, len, bits e 111 96, bits e 31 24 + bits e 255 112, (bs.drop off).take len⟩

def Img.parse (bs : List Byte) : Img :=
  let head := field bs 0 128
  ⟨bs, head, if 512 < bits head 111 96 then [] else (List.range (bits head 111 96)).map (Section.parse bs)⟩

/-! ### Fields of an image (02 R42 to R54) -/

/-- The bodies of the sections of a type and field; the first one. -/
def Img.sections (i : Img) (type f : Nat) : List Section := i.secs.filter fun x => x.type == type && x.field == f
def Img.section? (i : Img) (type f : Nat) : Option Section := (i.sections type f).head?
def Img.body? (i : Img) (type f : Nat) : List Byte := ((i.section? type f).map Section.body).getD []

/-- The fields that an image's sections name. -/
def Img.fieldList (i : Img) : List Nat := upTo 16 fun f => i.secs.any fun x => x.field == f && x.type != 2 && x.type != 4

/-- A kind record (02 R49). -/
def Recipe.parse (x : Nat) : Recipe := ⟨bits x 18 8, toSigned 4 (bits x 27 24), bit x 28⟩

/-- Templates of a STEP section from an offset (02 R51), n of them, with where they end. -/
def templatesAt (bs : List Byte) : Nat → Nat → List Template × Nat
  | 0, off => ([], off)
  | n + 1, off =>
    let h := field bs off 32
    let count := bits h 28 16
    let words := (List.range (min count ((bs.length - off - 32) / 16))).map fun i => BitVec.ofNat 128 (field bs (off + 32 + 16 * i) 16)
    let (rest, fin) := templatesAt bs n (off + 32 + 16 * count)
    (⟨BitVec.ofNat 144 (bits h 175 32), bits h 11 0, words⟩ :: rest, fin)

/-- The length of a group record with its padding (02 R53). -/
def groupBytes (members : Nat) : Nat := (72 + 4 * members + 15) / 16 * 16

/-- A group record at an offset. The check leaves out the fields that differ between members (11 R301). -/
def GroupRec.parse (bs : List Byte) (off : Nat) : GroupRec :=
  let x := field bs off 72
  let members := bits x 28 16 + 1
  let lens := (List.range members).map fun i => field bs (off + 72 + 4 * i) 4
  let hide := fun (x hi lo : Nat) => x - (bits x hi lo) <<< lo
  let masked := hide (hide (hide (hide (hide (hide x 44 32) 191 128) 127 64) 54 52) 50 48) 255 192
  { group := bits x 4 0, lane := bits x 11 8, members := members - 1, rank := bits x 44 32
    nextPort := bits x 50 48, prevPort := bits x 54 52
    nextSerial := BitVec.ofNat 64 (bits x 127 64), prevSerial := BitVec.ofNat 64 (bits x 191 128)
    queueBase := bits x 233 192
    cribTiles := (List.range (bits x 259 256 + 1)).map fun i => bits x (272 + 16 * i + 15) (272 + 16 * i)
    lengths := lens
    check := BitVec.ofNat 16 (crc crc16 (leBytes 72 masked ++ lens.flatMap (leBytes 4))) }

/-- The offsets of n group records, and where they end. -/
def groupOffs (bs : List Byte) : Nat → Nat → List Nat × Nat
  | 0, off => ([], off)
  | n + 1, off =>
    let (rest, fin) := groupOffs bs n (off + groupBytes (bits (field bs off 4) 28 16 + 1))
    (off :: rest, fin)

def SyncRec.parse (x : Nat) : SyncRec := ⟨bits x 3 2 == 1, bits x 1 0, bits x 13 8, bits x 31 16, bits x 47 32⟩

/-- Field f as the image's sections give it. -/
def Img.field (i : Img) (f : Nat) : Field :=
  let x := leNat (i.body? 1 f)
  let c := leNat (i.body? 3 f)
  let r := i.body? 5 f
  let ls := Machine.field r 64 16
  let ch := i.section? 6 f
  let st := i.section? 7 f
  let gr := i.section? 8 f
  let sy := i.section? 9 f
  { crop := bits x 9 8 == 1, host := bits x 23 16, plots := BitVec.ofNat 144 (bits x 239 96)
    contexts := BitVec.ofNat 16 (bits x 47 32), banks := BitVec.ofNat 8 (bits x 31 24), div := bits x 49 48
    repeatDenom := bits x 79 64
    base := bits c 41 0, size := bits c 105 64, near := if bits c 129 128 = 1 then some (bits c 131 130) else none
    mowMib := bits c 191 160, gatherMib := bits c 223 192, journalChunks := bits c 255 224
    recipes := (List.range 8).map fun k => Recipe.parse (Machine.field r (8 * k) 8)
    initExp := bits ls 7 0, growth := bits ls 31 16
    hasChain := ch.isSome
    shapes := (ch.map fun s => (List.range s.count).map fun k => BitVec.ofNat 512 (Machine.field s.body (64 * k) 64)).getD []
    entries := (List.range 16).map fun k => bits (Machine.field (i.body? 7 f) (2 * k) 2) 11 0
    templates := (st.map fun s => (templatesAt s.body s.count 32).1).getD []
    groups := (gr.map fun s => (groupOffs s.body s.count 0).1.map (GroupRec.parse s.body)).getD []
    syncs := (sy.map fun s => (List.range s.count).map fun k => SyncRec.parse (Machine.field s.body (8 * k) 8)).getD []
    imageId := i.id, scanned := false }

/-! ### What CAP_TARGET grants (02 R56, R58) -/

def capChannels (w : Nat) : Nat := bits w 9 0
def capMinDiv (w : Nat) : Nat := bits w 21 20
def capQuarter (w q : Nat) : Bool := bit w (16 + q)
def capPort (w k : Nat) : Bool := bit w (32 + k)
def capHalf : Nat := 28
def capOverlay : Nat := 29
def capRepeat : Nat := 30
/-- The reserved bits of a capability word are zero. -/
def capClean (w : Nat) : Bool := bits w 63 39 == 0 && !bit w 31 && bits w 23 22 == 0 && bits w 15 10 == 0

/-! ### Stages 1 to 4 (02 R59, R60) -/

/-- Whether two sections share a byte. -/
def Section.overlaps (a b : Section) : Bool := a.off < b.off + b.len && b.off < a.off + a.len

/-- Whether no two of a list are related. -/
def noPair {α : Type} (r : α → α → Bool) : List α → Bool
  | [] => true
  | a :: as => as.all (fun b => !r a b) && noPair r as

/-- Stage 1. -/
def Img.stage1 (i : Img) : Status :=
  let n := i.sectionCount
  let spare := bits i.head 1023 448 != 0 || bits i.head 383 352 != 0 || bits i.head 127 112 != 0 || bits i.head 63 50 != 0
  Status.lowest
    [ (bits i.head 31 0 != 0x52505552 || bits i.head 39 32 != 1 || bits i.head 47 40 != 0, .image),
      (i.length % 16 != 0 || i.length < 256 || 67108864 < i.length || n < 1 || 512 < n || i.length < 128 + 32 * n, .image),
      (65536 < i.sigLength || (i.sigLength == 0) == i.signed || i.bytes.length != i.length + i.sigLength, .image),
      (i.secs.any fun x => x.off % 16 != 0 || x.len % 16 != 0 || x.off < 128 + 32 * n || i.length < x.off + x.len, .image),
      (!noPair Section.overlaps i.secs, .image),
      (spare || !capClean i.target || i.secs.any fun x => x.spare != 0, .reserved) ]

/-- Stage 2: the CRC with its own field read as zero. -/
def Img.stage2 (i : Img) : Status :=
  if crc crc64xz (i.body.take 48 ++ zeros 8 ++ i.body.drop 56) = bits i.head 447 384 then .ok else .image

/-- Parameter sets of HSS signatures: images (02 R60), bundles (14 R372), the test key (14 R392), pattern packs (15 R400), the
calibration key (16 R430). -/
inductive HssSet where
  | image | bundle | test | pack | calibration
  deriving DecidableEq, Repr

/-- What a signature of each set may use. -/
def HssSet.rule : HssSet → HssRule
  | .image => ⟨2, [10, 15, 20], [4, 8]⟩
  | .bundle => ⟨2, [15, 20], [4, 8]⟩
  | .test | .pack | .calibration => ⟨1, [15], [8]⟩

/-- An HSS signature verified under a set. -/
def hssOk (set : HssSet) (key msg sig : List Byte) : Bool := hssVerify set.rule key msg sig

/-- Horxa's keys by use (14 R392; 15 R400; 16 R430). -/
def testKey : Nat := 0
def patternKey : Nat := 1
def factoryKey : Nat := 2

/-- One of Horxa's public keys (log 6). -/
def horxaKey (s : State) (k : Nat) : List Byte := (SMap.get none s.mgmt.fuses.keys k).getD (Config.horxaKey k)

/-- Stage 3. -/
def Img.stage3 (s : State) (i : Img) : Status :=
  match s.mgmt.imageKey with
  | some key => if i.signed && hssOk .image key i.body i.signature then .ok else .signature
  | none => .ok

/-- Stage 4 (02 R58). -/
def Img.stage4 (s : State) (i : Img) : Status :=
  let c := s.mgmt.capWord.toNat
  let t := i.target
  let kept := (rangeFrom 24 15 ++ rangeFrom 16 4).all fun k => !bit t k || bit c k
  let rel := s.mgmt.release.toNat
  if kept && capChannels t ≤ capChannels c && capMinDiv c ≤ capMinDiv t && bits i.head 159 128 ≤ rel && rel ≤ bits i.head 191 160
  then .ok else .capability

/-! ### Stage 5: records -/

/-- The package's top of stack memory under a capability word (02 R47). -/
def capTop (w : Nat) : Nat := 2684354560 * capChannels w

def oneGib : Nat := 0x40000000

/-- The FIELD record (02 R42 to R44). -/
def fieldConds (t : Nat) (x : Section) (fd : Field) : List (Bool × Status) :=
  let r := leNat x.body
  let id := bits r 7 0
  [ (x.len != 32, .image),
    (bits r 255 240 != 0 || bits r 95 80 != 0 || bits r 63 50 != 0 || bits r 15 10 != 0 || 1 < bits r 9 8, .reserved),
    (15 < id || 15 < fd.host, .range), (id != x.field || (!fd.crop && fd.host != id), .image),
    (0 < fd.repeatDenom && fd.repeatDenom < 64, .range), (0 < fd.repeatDenom && !bit t capRepeat, .capability),
    (fd.div < capMinDiv t || (fd.crop && !bit t capOverlay) || fd.quarters.any fun q => !capQuarter t q, .capability),
    (fd.plots == 0 || fd.contexts == 0 || fd.banks == 0, .image) ]

/-- The CARVE record (02 R46, R47). -/
def carveConds (t : Nat) (x : Section) (fd : Field) : List (Bool × Status) :=
  let r := leNat x.body
  let j := fd.journalChunks
  [ (x.len != 32, .image), (bits r 159 132 != 0 || bits r 127 106 != 0 || bits r 63 42 != 0 || 1 < bits r 129 128, .reserved),
    ((j != 0 && (j < 64 || 4096 < j)) || fd.size == 0 || fd.size % oneGib != 0 || fd.base % oneGib != 0
      || (bits r 129 128 == 0 && bits r 131 130 != 0), .range),
    (capTop t < fd.base + fd.size || (fd.near.map fun q => !capQuarter t q).getD false, .capability),
    (fd.size < fd.journal * fd.quarters.length + 0x100000 * (fd.mowMib + fd.gatherMib), .image) ]

/-- The POWER record (02 R48). -/
def powerConds (x : Section) : List (Bool × Status) :=
  let r := leNat x.body
  let share := (List.range 4).map fun n => bits r (16 * n + 15) (16 * n)
  let splits := (List.range 4).map fun n => (List.range 4).map fun d => bits r (64 * n + 64 + 16 * d + 15) (64 * n + 64 + 16 * d)
  [ (x.len != 64, .image), (bits r 511 328 != 0, .reserved),
    (50 < bits r 327 320 || share.any (fun v => v < 100 || 400 < v) || splits.any fun l => l.any fun v => v < 50 || 800 < v, .range),
    (share.sum != 1000 || splits.any fun l => l.sum != 1000, .image) ]

/-- The RECIPE records (02 R49). -/
def recipeConds (x : Section) : List (Bool × Status) :=
  let rs := (List.range 8).map fun k => field x.body (8 * k) 8
  let l := field x.body 64 16
  [ (x.len != 80, .image),
    (rs.any (fun r => bits r 7 3 != 0 || bits r 23 19 != 0 || bits r 63 29 != 0) || bits l 15 8 != 0 || bits l 127 32 != 0, .reserved),
    (rs.any (fun r => bits r 18 8 < 1 || 1024 < bits r 18 8) || 40 < bits l 7 0 || bits l 31 16 == 0, .range),
    ((List.range 8).any fun k => bits (rs.getD k 0) 2 0 != k, .image) ]

/-- Highest SUB of each stage type 0 to 8 (07 R190 to R199). -/
def subMax (type : Nat) : Nat := ([0, 1, 8, 5, 6, 2, 2, 2, 0] : List Nat).getD type 0

/-- Whether a stage uses SRC_Y, and SRC_Z (07 R191 to R193). -/
def Stage.usesY (t : Stage) : Bool := (t.type == 2 && t.sub ≤ 5) || t.type == 3 || (t.type == 5 && t.sub == 0)
def Stage.usesZ (t : Stage) : Bool :=
  (t.type == 2 && t.sub == 3) || (t.type == 3 && t.mode % 4 ≤ 1)
    || (t.type == 5 && t.sub == 0 && ((Fmt.ofCode (t.const % 64)).map Fmt.unsigned).getD false)

/-- The sources that a stage uses. -/
def Stage.sources (t : Stage) : List Nat := [t.x] ++ (if t.usesY then [t.y] else []) ++ (if t.usesZ then [t.z] else [])

/-- MODE bits of a stage type. -/
def modeBits (type : Nat) : Nat := if type = 3 then 0xB else if type = 7 then 0x3 else if type = 8 then 0x1 else 0

/-- CONST bits reserved by a stage: of reduces, scans and QDQ. -/
def Stage.constSpare (t : Stage) : Nat :=
  if t.type = 6 then t.const / 8 else if t.type = 7 then t.const / 16 else if t.type = 5 ∧ t.sub = 0 then t.const / 64 else 0

/-- One stage at position p (07 R184). -/
def stageConds (cap : Nat) (c : ChainShape) (p : Nat) (t : Stage) : List (Bool × Status) :=
  if t.type = 0 then [(true, .image)]
  else if 8 < t.type ∨ subMax t.type < t.sub then [(true, .reserved)]
  else
    let f := Fmt.ofCode (t.const % 64)
    let qdq := t.type == 5 && t.sub == 0
    let noScal := c.scalarSlot == 0xFFFF
    [ ((!t.usesY && t.y != 0) || (!t.usesZ && t.z != 0) || (t.mode ||| modeBits t.type) != modeBits t.type
        || (t.type == 3 && t.mode % 4 == 3) || t.constSpare != 0 || (qdq && f.isNone), .reserved),
      (qdq && (f.map fun f => !chainD f || f == .int16 || f == .int32).getD false, .range),
      (qdq && ((f.bind Fmt.capBit).map fun b => !bit cap b).getD false, .capability),
      (t.sources.any fun v => (v ≤ 6 && p ≤ v) || ((v == 8 || v == 9) && t.type != 1) || (v == 9 && c.bRole != 0)
        || (0xB ≤ v && v ≤ 0xE && noScal), .image),
      (t.type == 8 && p + 1 != c.stages.length, .image),
      (noScal && (t.type == 6 || (t.type == 7 && t.const / 4 % 4 != 0)), .image),
      (c.bRole < 2 && ((t.type == 7 && bit t.mode 1) || (t.type == 8 && bit t.mode 0)), .image) ]

/-- The scalar that a stage writes. -/
def Stage.written (t : Stage) : Option Nat :=
  if t.type = 6 ∨ (t.type = 7 ∧ bit t.const 3) then some (t.const % 4) else none

/-- A shape record (07 R181, R182, R184). -/
def shapeConds (cap : Nat) (r : BitVec 512) : List (Bool × Status) :=
  let x := r.toNat
  let c := ChainShape.parse r
  let n := c.stages.length
  [ (bits x 47 19 != 0 || bits x 15 10 != 0 || bits x 7 3 != 0 || 4 < c.ctxSel || bits x 511 (64 + 56 * n) != 0, .reserved),
    (!distinct (c.stages.filterMap Stage.written), .image) ]
  ++ (c.stages.zipIdx.flatMap fun p => stageConds cap c p.2 p.1)

/-- The CHAIN section (02 R50). -/
def shapesConds (cap : Nat) (x : Section) (fd : Field) : List (Bool × Status) :=
  [(x.count < 1 || 64 < x.count, .range), (x.len != 64 * x.count, .image)] ++ fd.shapes.flatMap (shapeConds cap)

/-- UNIT's highest value in a class (03 R75). -/
def unitMax (cls : Nat) : Nat := if cls = 4 then 2 else if cls = 7 then 1 else if cls = 8 then 3 else 0

/-- A step word at index idx (03 R76, R77; 05 R154). -/
def wordConds (cap idx : Nat) (w : BitVec 128) : List (Bool × Status) :=
  [ (11 < stepClass w || unitMax (stepClass w) < stepUnit w || bit w.toNat 14
      || (stepClass w == 1 && (stepLoopEnd w || stepLoopNo w != 0)), .reserved),
    (stepClass w == 4 && stepUnit w != 0 && !bit cap capHalf, .capability),
    (stepLoopEnd w && idx == 4095, .image) ]

/-- Where flow goes on from a step at idx (03 R77, R79, R449); ITEM_END returns and HALT stops. -/
def successors (idx : Nat) (w : BitVec 128) : List Nat :=
  if stepClass w = 0 ∧ (stepOp w = 2 ∨ stepOp w = 3) then []
  else if stepClass w = 1 then [stepNext w, stepLo w % 4096]
  else if stepLoopEnd w then [stepNext w, idx + 1]
  else [stepNext w]

/-- The word that templates write at an index. -/
def templateWord (ts : List Template) (idx : Nat) : Option (BitVec 128) :=
  (ts.find? fun t => t.base ≤ idx && idx < t.base + t.words.length).bind fun t => t.words[idx - t.base]?

/-- Whether flow from the indices to visit stays within the templates. -/
def flowInside (ts : List Template) : Nat → List Nat → List Nat → Bool
  | _, [], _ => true
  | 0, _ :: _, _ => true
  | n + 1, i :: rest, seen =>
    if seen.contains i then flowInside ts n rest seen
    else
      match templateWord ts i with
      | some w => flowInside ts n (successors i w ++ rest) (i :: seen)
      | none => false

/-- The numbers of the templates that a plot takes. -/
def plotTemplates (fd : Field) (p : Nat) : List Nat := upTo fd.templates.length fun k =>
  ((fd.templates[k]?).map fun t => bit t.plots.toNat p).getD false

/-- R52 within a field: entry steps and flow from them lie in templates of the tile. -/
def flowOk (fd : Field) : Bool :=
  let sets := ((upTo 144 fun p => bit fd.plots.toNat p).map (plotTemplates fd)).eraseDups
  sets.all fun ks => flowInside (ks.filterMap fun k => fd.templates[k]?) 8300 (fd.contextList.map fun c => fd.entries.getD c 0) []

/-- Template headers of a STEP section (02 R51). -/
def templateConds (x : Section) (fd : Field) : Nat → Nat → List (Bool × Status)
  | 0, _ => []
  | n + 1, off =>
    let h := field x.body off 32
    let count := bits h 28 16
    [ (bits h 255 176 != 0 || bits h 31 29 != 0 || bits h 15 12 != 0, .reserved), (count < 1 || 4096 < count, .range),
      (bits h 175 32 ||| fd.plots.toNat != fd.plots.toNat || 4096 < bits h 11 0 + count, .image),
      (x.len < off + 32 + 16 * count, .image) ] ++ templateConds x fd n (off + 32 + 16 * count)

/-- The STEP section (02 R51, R52; 03 R76). -/
def stepConds (cap : Nat) (x : Section) (fd : Field) : List (Bool × Status) :=
  let es := (List.range 16).map fun c => field x.body (2 * c) 2
  [ (x.len != (templatesAt x.body x.count 32).2, .image), (es.any fun e => e / 4096 != 0, .reserved),
    ((List.range 16).any fun c => es.getD c 0 != 0 && !bit fd.contexts.toNat c, .image), (!flowOk fd, .image) ]
  ++ templateConds x fd x.count 32
  ++ fd.templates.flatMap fun t => t.words.zipIdx.flatMap fun p => wordConds cap (t.base + p.2) p.1

/-- A group record at an offset (02 R53; 11 R296). -/
def groupConds (cap : Nat) (x : Section) (fd : Field) (off : Nat) : List (Bool × Status) :=
  let r := field x.body off 72
  let g := GroupRec.parse x.body off
  let pad := (x.body.drop (off + 72 + 4 * g.size)).take (groupBytes g.size - 72 - 4 * g.size)
  let ports := [g.nextPort, g.prevPort]
  [ (x.len < off + groupBytes g.size, .image),
    (bits r 575 528 != 0 || bits r 271 260 != 0 || bits r 255 234 != 0 || bits r 63 55 != 0 || bit r 51 || bits r 47 45 != 0
      || bits r 31 29 != 0 || bits r 15 12 != 0 || bits r 7 5 != 0 || pad.any (· != 0), .reserved),
    (g.size ≤ g.rank || ports.any (fun k => k == 6 || (g.size == 1) != (k == 7)) || g.queueBase % 65536 != 0, .range),
    (ports.any fun k => k < 6 && !capPort cap k, .capability),
    (g.cribTiles.any (fun t => 2304 ≤ t || !fd.onTile t) || g.queueBase < fd.base || fd.base + fd.size < g.queueBase + 65536, .image) ]

/-- The GROUP section. -/
def groupsConds (cap : Nat) (x : Section) (fd : Field) : List (Bool × Status) :=
  let (offs, fin) := groupOffs x.body x.count 0
  [(x.count < 1 || 32 < x.count, .range), (x.len != fin, .image)] ++ offs.flatMap (groupConds cap x fd)

/-- A synchronisation record (02 R54, R55; 11 R287). -/
def syncConds (cap : Nat) (fd : Field) (r : Nat) : List (Bool × Status) :=
  let y := SyncRec.parse r
  let owned := (upTo 144 fun p => bit fd.plots.toNat p).length * 16 * fd.contextList.length
  [ (bits r 63 48 != 0 || bits r 15 14 != 0 || bits r 7 4 != 0 || 1 < bits r 3 2, .reserved),
    (!capQuarter cap y.quarter, .capability),
    (if y.signal then 4095 < y.index || y.count < 1 || 4096 < y.count else 63 < y.index || y.count < 1 || 36864 < y.count, .range),
    (if y.signal then 4096 < y.index + y.count else owned < y.count, .image) ]

/-- The SYNC section. An odd number of records is followed by 8 zero bytes: DESIGN CHOICE (log 25). -/
def syncsConds (cap : Nat) (x : Section) (fd : Field) : List (Bool × Status) :=
  [(x.len != (8 * x.count + 15) / 16 * 16, .image), ((x.body.drop (8 * x.count)).any (· != 0), .reserved)]
  ++ (List.range x.count).flatMap fun k => syncConds cap fd (field x.body (8 * k) 8)

/-- A section by its type (02 R41). -/
def sectionConds (i : Img) (x : Section) : List (Bool × Status) :=
  let t := i.target
  let fd := i.field x.field
  let pkg := x.type == 2 || x.type == 4
  [ (x.type == 0 || 9 < x.type, Status.reserved), (pkg && (x.field != 0xFF || i.partial_), .image),
    (!pkg && x.field == 0xFF, .image), (!pkg && 15 < x.field && x.field != 0xFF, .range) ]
  ++ match x.type with
    | 1 => fieldConds t x fd
    | 2 => [(x.len != 16, .image), (leNat x.body / 2 ^ 32 != 0, .reserved)]
    | 3 => carveConds t x fd
    | 4 => powerConds x
    | 5 => recipeConds x
    | 6 => shapesConds t x fd
    | 7 => stepConds t x fd
    | 8 => groupsConds t x fd
    | 9 => syncsConds t x fd
    | _ => []

/-- The counts of 02 R41. -/
def countConds (i : Img) : List (Bool × Status) :=
  let n := fun t f => (i.sections t f).length
  [ (!i.partial_ && (n 2 0xFF != 1 || n 4 0xFF != 1), .image), (i.partial_ && i.fieldList.length != 1, .image),
    (i.fieldList.any fun f => [1, 3, 5, 7].any (fun t => n t f != 1) || [6, 8, 9].any fun t => 1 < n t f, .image) ]

/-! ### Rules between fields (02 R43, R47, R52, R53, R55, R63) -/

/-- Whether two masks meet. -/
def meets {w : Nat} (a b : BitVec w) : Bool := (a &&& b) != 0

/-- Whether the words of two step ranges share an index. -/
def Template.overlaps (a b : Template) : Bool :=
  meets a.plots b.plots && a.base < b.base + b.words.length && b.base < a.base + a.words.length

/-- Whether two records take one unit, word or wake wire. -/
def SyncRec.clash (a b : SyncRec) : Bool :=
  a.quarter == b.quarter && (a.wake == b.wake || (a.signal == b.signal &&
    if a.signal then a.index < b.index + b.count && b.index < a.index + a.count else a.index == b.index))

/-- The rules between two fields. `reloaded` is the field that a partial image brings: a break between a main field so brought
and a crop over it is E_BUSY (02 R63). -/
def pairConds (reloaded : Option Nat) (a b : Nat × Field) : List (Bool × Status) :=
  let x := a.2
  let y := b.2
  let upon := (x.crop && x.host == b.1) || (y.crop && y.host == a.1)
  let crops := x.crop && y.crop && x.host == y.host
  let main := if x.crop then b.1 else a.1
  let st : Status := if upon && reloaded == some main then .busy else .image
  let (c, h) := if x.crop then (x, y) else (y, x)
  [ (!x.crop && !y.crop && meets x.plots y.plots, .image),
    (upon && !h.crop && ((c.plots &&& ~~~h.plots) != 0 || c.div != h.div), st),
    (upon && h.crop, .image),
    ((upon || crops) && meets x.plots y.plots && (meets x.contexts y.contexts || meets x.banks y.banks), st),
    (x.base < y.base + y.size && y.base < x.base + x.size, .image),
    (x.templates.any fun t => y.templates.any t.overlaps, .image),
    (x.groups.any fun g => y.groups.any fun k => k.group == g.group, .image),
    (x.syncs.any fun r => y.syncs.any r.clash, .image) ]

/-- The rules within one field that relate several of its records. -/
def innerConds (f : Nat × Field) : List (Bool × Status) :=
  [ ((f.2.near.map fun q => f.2.quarters.any (· != q)).getD false, .image), (!noPair Template.overlaps f.2.templates, .image),
    (!distinct (f.2.groups.map GroupRec.group), .image) ]

/-- A rule over every pair. -/
def pairsOf {α : Type} : List α → List (α × α)
  | [] => []
  | a :: as => as.map (fun b => (a, b)) ++ pairsOf as

/-- The rules over a set of fields. `hosts` says that a crop's host must be among them. -/
def relationConds (fs : List (Nat × Field)) (reloaded : Option Nat) (hosts : Bool) : List (Bool × Status) :=
  (pairsOf fs).flatMap (fun p => pairConds reloaded p.1 p.2) ++ fs.flatMap innerConds
  ++ [(hosts && fs.any fun f => f.2.crop && !(fs.any fun h => h.1 == f.2.host && !h.2.crop), .image)]

/-- The fields of an image. -/
def Img.fields (i : Img) : List (Nat × Field) := i.fieldList.map fun f => (f, i.field f)

/-- Whether an image is a removal image (02 R63). -/
def Img.removal (i : Img) : Bool :=
  i.partial_ && i.secs.length == 1
    && i.secs.all fun x => x.type == 1 && (let r := leNat x.body; bits r 239 96 == 0 && bits r 47 24 == 0)

/-- The section of a removal image. -/
def Img.removed (i : Img) : Section := i.secs.headD ⟨0, 0, 0, 0, 0, 0, []⟩

/-- Stage 5 of a removal image (02 R63): KIND and HOST_FIELD are compared with the field that is loaded. -/
def Img.removalConds (s : State) (i : Img) : List (Bool × Status) :=
  let x := i.removed
  let r := leNat x.body
  let fd := if x.field < 16 then fieldOf s x.field else none
  [ (x.len != 32 || bits r 7 0 != x.field, .image),
    (bits r 255 240 != 0 || bits r 95 80 != 0 || bits r 63 50 != 0 || bits r 15 10 != 0, .reserved),
    (fd.isNone, .range),
    ((fd.map fun fd => bits r 9 8 != b2n fd.crop || bits r 23 16 != fd.host).getD false, .image) ]

/-- Stage 5 (02 R59). -/
def Img.stage5 (s : State) (i : Img) : Status :=
  if i.removal then Status.lowest (i.removalConds s)
  else Status.lowest (i.secs.flatMap (sectionConds i) ++ countConds i ++ relationConds i.fields none (!i.partial_))

/-- The fields loaded once the image is applied. -/
def Img.result (s : State) (i : Img) : List (Nat × Field) :=
  if i.partial_ then
    ((loadedFields s).filter fun f => !i.fieldList.contains f).filterMap (fun f => (fieldOf s f).map fun fd => (f, fd))
      ++ (if i.removal then [] else i.fields)
  else i.fields

/-- Stage 6 (02 R47, R63). -/
def Img.stage6 (s : State) (i : Img) : Status :=
  let fs := i.result s
  let near := fun q => ((fs.filter fun f => f.2.near == some q).map fun f => f.2.size).sum
  let limit := [0, 1, 2, 3].any fun q => decide (2684354560 * (quarterLive s q).length < near q)
  if i.removal then if (cropsOver s i.removed.field).isEmpty then .ok else .busy
  else Status.lowest ((limit, .image) :: if i.partial_ then relationConds fs i.fieldList.head? true else [])

/-- The first status other than OK. -/
def firstBad : List Status → Status
  | [] => .ok
  | a :: as => if a = .ok then firstBad as else a

/-- Validation (02 R59): the status of the first stage that fails. A stage is looked at only when the ones before it pass. -/
def Img.validate (s : State) (i : Img) : Status :=
  if i.stage1 ≠ .ok then i.stage1
  else if i.stage2 ≠ .ok then i.stage2
  else firstBad [i.stage3 s, i.stage4 s, i.stage5 s, i.stage6 s]

/-! ### Applying (02 R61 to R65) -/

/-- What addresses that moved hold is lost (02 R62; 08 R213): bytes listed at granules placed elsewhere than before. -/
def movePlacement (old s : State) : State :=
  let stays := fun (a : Nat) => decide (scratchBase ≤ a) || placement old (a / 256) == placement s (a / 256)
  if old.fields.seed = s.fields.seed ∧ old.fields.near = s.fields.near ∧ old.mem.live = s.mem.live then s
  else
    { s with mem := { s.mem with
        bytes := { s.mem.bytes with cells := s.mem.bytes.cells.filter fun c => stays c.1, era := s.mem.bytes.era + 1 }
        flips := s.mem.flips.filter fun p => stays (16 * p.1) } }

/-- A scratchpad bank zeroed, check bits with it (02 R61). -/
def zeroBank (s : State) (tile bank : Nat) : State :=
  let lo := padAddr tile (0x20000 * bank) / 16
  { s with mem := { s.mem with
      bytes := s.mem.bytes.zeroBank (8 * tile + bank)
      flips := s.mem.flips.filter fun p => p.1 < lo || lo + 0x2000 ≤ p.1 } }

/-- A template's words written to the step tables, the quarter controllers' copies with them (02 R51; 03 R69). -/
def writeTemplate (f : Nat) (m : SMap (Option StepEntry)) (t : Template) : SMap (Option StepEntry) :=
  ((upTo 144 fun p => bit t.plots.toNat p).flatMap plotTiles).foldl (fun m tile =>
    t.words.zipIdx.foldl (fun m w => SMap.set none m (4096 * tile + t.base + w.2) (some ⟨w.1, f⟩)) m) m

/-- A barrier unit or signal range set up (11 R289, R290; 02 R64). -/
def startSync (f : Nat) (s : Sync) (r : SyncRec) : Sync :=
  if r.signal then
    (rangeFrom (4096 * r.quarter + r.index) r.count).foldl (fun s w =>
      { s with words := SMap.erase s.words w, attrs := SMap.set {} s.attrs w ⟨f, r.wake⟩ }) s
  else
    let i := 64 * r.quarter + r.index
    let old := SMap.get {} s.barriers i
    let b : Barrier := { field := f, allocated := true, wake := r.wake, count := r.count, abandons := old.abandons }
    { s with barriers := SMap.set {} s.barriers i b }

/-- The first part of a field start, order 5 (02 R61; 13 R363). -/
def startResources (s : State) (f : Nat) (fd : Field) : State :=
  let s := fd.tiles.foldl (fun s t =>
    resetArray ((upTo 8 fun b => bit fd.banks.toNat b).foldl (fun s b => zeroBank s t b) s) t) s
  let table := fd.templates.foldl (writeTemplate f) s.tiles.table
  { s with
    tiles := { s.tiles with table := table, tableCopy := fd.templates.foldl (writeTemplate f) s.tiles.tableCopy }
    fields := { s.fields with fields := SMap.set none s.fields.fields f (some fd) }
    sync := fd.syncs.foldl (startSync f) s.sync
    colls := fd.groups.foldl (fun m g => SMap.set none m g.group (some { field := f, desc := g })) s.colls }

/-- A field's contexts at their entry steps (02 R61 order 6; 15 R410). -/
def startContexts (s : State) (f : Nat) (fd : Field) : State :=
  fd.tiles.foldl (fun s t => fd.contextList.foldl (fun s c =>
    setCtx s t c { owner := f, state := if quarantined s t then .quarantined else .ready, step := fd.entries.getD c 0 }) s) s

/-- A field's groups at field start: their status written, and partitioned when they are cut (11 R296, R315). -/
def startGroups (s : State) (f : Nat) (fd : Field) : State :=
  fd.groups.foldl (fun s g =>
    match groupOf s g.group with
    | some x =>
      if x.field = f then
        let s := putGroup s g.group x
        if groupCut s x then partitionGroup s g.group 1 none else s
      else s
    | none => s) s

/-- The near set in force once the image is applied (02 R47; 08 R210): of the fields that stay loaded, and of those it brings. -/
def Img.nearMap (s : State) (i : Img) : SMap (Option (Nat × Nat × Nat)) :=
  let base := if i.partial_ then s.fields.near.filter fun n => (fieldOf s n.1).isSome && !i.fieldList.contains n.1 else []
  if i.removal then base
  else i.fields.foldl (fun m f => SMap.set none m f.1 (f.2.near.map fun q => (q, f.2.base / 256, f.2.size / 256))) base

/-- POWER's fractions (02 R48). -/
def Img.splits (i : Img) : SMap Split :=
  let r := leNat (i.body? 4 0xFF)
  (List.range 4).foldl (fun m n =>
    let p := fun d => bits r (64 * n + 64 + 16 * d + 15) (64 * n + 64 + 16 * d)
    SMap.set {} m n ⟨bits r (16 * n + 15) (16 * n), p 0, p 1, p 2, p 3⟩) []

/-- The digest kept of an image (02 R67). -/
def Img.mark (s : State) (i : Img) : ImageMark := ⟨sha256 i.body, s.mgmt.imageKey.isSome⟩

/-- The package sections and the near set applied, with the digests and the IMAGE_IDs. -/
def applySections (s : State) (i : Img) : State :=
  let full := !i.partial_
  let fs := { s.fields with
    near := i.nearMap s
    imageIds := i.fieldList.foldl (fun m f => SMap.set 0 m f i.id) s.fields.imageIds
    seed := if full then BitVec.ofNat 32 (field (i.body? 2 0xFF) 0 4) else s.fields.seed
    splits := if full then i.splits else s.fields.splits
    chaffFloor := if full then bits (leNat (i.body? 4 0xFF)) 327 320 else s.fields.chaffFloor
    fullImage := if full then some (i.mark s) else s.fields.fullImage
    partials := if full then s.fields.partials
      else i.fieldList.foldl (fun m f => SMap.set none m f (some (i.mark s))) s.fields.partials }
  movePlacement s { s with fields := fs }

/-- The fields that applying the image resets, order 4 (02 R61, R63): crops that stay covered run on. -/
def imageResets (s : State) (i : Img) : State :=
  if i.partial_ then i.fieldList.foldl (resetField true) s
  else
    let s := resetFields true s (loadedFields s)
    let s := [0, 1, 2, 3].foldl (fun s q => setLoft s q { loftOf s q with lines := [] }) s
    let s := loseTiles s 0 2304
    { s with tiles := { s.tiles with table := [], tableCopy := [] } }

/-- The warning floor and the record of a budget exceeded, at a load (13 R357, R362). -/
def loadQuarters (s : State) (fs : List (Nat × Field)) : State :=
  [0, 1, 2, 3].foldl (fun s q =>
    let x := { quarterOf s q with overRecord := false }
    setQuarter s q (if fs.any fun f => f.2.quarters.contains q then { x with floor := false, warnTimes := [] } else x)) s

/-- Orders 4 to 6 of 02 R61, of a validated image. -/
def applyImage (s : State) (i : Img) : State :=
  let fs := if i.removal then [] else i.fields
  let s := spreadBudgets (loadQuarters (applySections (imageResets s i) i) fs)
  let s := if i.removal then i.fieldList.foldl removeField s else fs.foldl (fun s f => startResources s f.1 f.2) s
  let s := fs.foldl (fun s f => startContexts s f.1 f.2) s
  settleLanes (fs.foldl (fun s f => startGroups s f.1 f.2) s)

/-- B0's loft with 7 ways during staging: the lines in the other ways are dropped (02 R61; 08 R221). -/
def shrinkLoft (s : State) : State :=
  let l := loftOf s 0
  setLoft s 0 { l with lines := l.lines.filter fun x => SMap.get 0 l.places x.1 % 16 < 7 }

/-- Bytes of stack memory read by firmware: the state, the bytes and the status (02 R61; 08 R233; 09 R239). -/
def firmwareRead (s : State) (addr n : Nat) : State × List Byte × Status :=
  if stackTop s < addr + n then (s, [], .range)
  else if runBusy s addr n then (s, [], .busy)
  else
    let bs := seeBytes s none addr n
    match readRun s none false false addr n with
    | (s, some w) => (badWordFault s (mkFault s 0x02 .uncorrectable (homeOf s addr)) w, [], .uncorrectable)
    | (s, none) => (s, bs, .ok)

/-- The record of an image event (15 R398 class 0x10). -/
def imageFault (s : State) (id : BitVec 64) (order : Nat) (st : Status) : State :=
  logFault s { mkFault s 0x10 st 0 with
    unitClass := 0x10, unitIndex := 0, imageId := id, detail := BitVec.ofNat 512 (order + st.code <<< 16) }

/-- The standing image validated and applied (02 R66). -/
def applyStanding (s : State) : State :=
  match (s.mgmt.standMark.bind fun k => SMap.get none s.mgmt.standing k) with
  | some slot =>
    let i := Img.parse slot.bytes
    let st := i.validate s
    if st = .ok then applyImage s i else imageFault s i.id 3 st
  | none => s

end Sys2Proof.Machine
end

