-- ==== Sys2Proof/Machine/Weighbridge.lean ====
section
/-! DEFINITION. The weighbridge (16 R417 to R432): sampling, intervals, records, signatures, calibration and what its messages
answer. -/
namespace Sys2Proof.Machine

/-- The 32 bytes of a digest. -/
def digestBytes (d : BitVec 256) : List Byte := leBytes 32 d.toNat

/-! ### Sampling (16 R420; log 13) -/

/-- What one unit of a corrected sample stands for: 2³⁰ gain steps by a million scale steps. -/
def sampleUnit : Nat := 2 ^ 30 * 1000000
/-- A channel's highest value: microvolts, or milliamperes of its entry. -/
def channelMax (ch : Nat) : Nat := if ch % 2 = 0 then 1600000 else ([6000000, 2000000, 1500000, 1000000] : List Nat).getD (ch / 2) 0

/-- A channel's sample corrected, as a multiple of 1 / sampleUnit, before the clamp. -/
def corrected (w : Wb) (ch : Nat) (count : Int) : Int :=
  let c := SMap.get {} w.cals ch
  (count + c.offset) * (c.gain : Int) * (Config.adcScale ch : Int)

/-- The sample clamped to its channel's range. -/
def clamped (w : Wb) (ch : Nat) (count : Int) : Nat := (clampInt 0 (channelMax ch * sampleUnit : Nat) (corrected w ch count)).toNat

/-- v × i × 1 µs of the four entries in units of 10⁻¹² mJ / sampleUnit². -/
def sampleEnergy (w : Wb) (counts : List Int) : Nat :=
  ([0, 1, 2, 3].map fun e => clamped w (2 * e) (counts.getD (2 * e) 0) * clamped w (2 * e + 1) (counts.getD (2 * e + 1) 0)).sum

/-- Units of sampleEnergy in a millijoule. -/
def energyUnit : Nat := 1000000000000 * (sampleUnit * sampleUnit)

def flagLegal : Nat := 0
def flagUtc : Nat := 1
def flagPowerLoss : Nat := 2
def flagShort : Nat := 3
def flagSigned : Nat := 4
def flagRange : Nat := 5
def flagCal : Nat := 6
def flagRestart : Nat := 7
def flagGap : Nat := 8

/-- A flag of the open record set (16 R425). -/
def Wb.mark (w : Wb) (k : Nat) : Wb := { w with accum := { w.accum with flags := w.accum.flags ||| 2 ^ k } }

/-- One sample of all eight channels. -/
def Wb.sample (w : Wb) (counts : List Int) : Wb :=
  let out := (List.range 8).any fun ch => (clamped w ch (counts.getD ch 0) : Int) != corrected w ch (counts.getD ch 0)
  let total := w.accum.fraction + sampleEnergy w counts
  let w := if out then w.mark flagRange else w
  { w with running := w.running + 100
           accum := { w.accum with energy := w.accum.energy + total / energyUnit, fraction := total % energyUnit } }

/-- WEIGHBRIDGE_SAMPLE (16 R420, R423): a microsecond of sclk, which is 100 ticks, passes with it (log 8). -/
def execWeighbridgeSample (counts : List Int) (s : State) : Host.Outcome State Fault Refusal :=
  .next (
    if s.power.pwrgood ∧ s.power.pllLocked then
      { s with power := { s.power with sclk := s.power.sclk + 100 }, wb := s.wb.sample counts }
    else s)

/-- WEIGHBRIDGE_CHECKPOINT (16 R423). -/
def execWeighbridgeCheckpoint (s : State) : Host.Outcome State Fault Refusal :=
  .next (
    if s.power.pwrgood ∧ s.power.pllLocked then { s with wb := { s.wb with checkpoint := some (s.wb.running, s.wb.accum) } }
    else s)

/-! ### Signature indices (16 R426) -/

/-- Indices of the weighbridge key. -/
def wbIndices : Nat := 2 ^ 20

/-- The next index, if one remains, with the block it needs reserved. -/
def Wb.takeIndex (w : Wb) : Option Nat × Wb :=
  if wbIndices ≤ w.sigNext then (none, w)
  else (some w.sigNext, { w with sigNext := w.sigNext + 1, sigEnd := if w.sigEnd ≤ w.sigNext then w.sigNext + 64 else w.sigEnd })

/-- A signature's 2,832 bytes. -/
def wbSignature (index : Nat) (body : List Byte) : List Byte := slice (Config.weighbridgeSign index body) 0 2832

/-! ### Intervals and records (16 R423 to R427) -/

/-- Ticks of an interval. -/
def intervalTicks : Nat := 90000000000

/-- The record body's bytes with n bytes of a value at an offset. -/
def patch (bs : List Byte) (off n v : Nat) : List Byte := bs.take off ++ leBytes n v ++ bs.drop (off + n)

/-- Work of a class with the remainder of the last interval. -/
def Accum.macs (a : Accum) (c : Nat) : Nat := SMap.get 0 a.remainder c + SMap.get 0 a.work c

/-- Work of the interval and cumulative work, class by class, as a record carries them (16 R425). -/
def Accum.workBytes (a : Accum) : List Byte :=
  ([0, 1, 2, 3].flatMap fun c => leBytes 8 (a.macs c / 2 ^ 20))
    ++ ([0, 1, 2, 3].flatMap fun c => leBytes 8 (SMap.get 0 a.cumWork c + a.macs c / 2 ^ 20))

/-- The digest that a record carries of the one before it. -/
def previousDigest (w : Wb) : List Byte :=
  match w.records.getLast? with
  | some r => shaBytes (r.body ++ r.signature)
  | none => zeros 32

/-- The body of the record that closes now, not yet signed (16 R425). -/
def recordBody (s : State) : List Byte :=
  let w := s.wb
  let a := w.accum
  let flags := a.flags ||| b2n s.mgmt.fuses.legal ||| (if w.running < a.start + intervalTicks then 2 ^ flagShort else 0)
  leBytes 4 0x52575154 ++ leBytes 2 1 ++ leBytes 2 flags ++ leBytes 8 w.nextNumber ++ leBytes 8 s.mgmt.fuses.serial.toNat
    ++ leBytes 8 a.start ++ leBytes 8 w.running ++ leBytes 8 w.utc ++ leBytes 8 w.utcAt
    ++ leBytes 8 a.energy ++ leBytes 8 (a.cumEnergy + a.energy)
    ++ a.workBytes ++ leBytes 4 w.auditCount ++ leBytes 4 0xFFFFFFFF ++ leBytes 4 Config.weighbridgeVersion.toNat ++ zeros 4
    ++ digestBytes Config.weighbridgeDigest ++ previousDigest w ++ zeros 8

/-- The accumulators of the next interval (16 R422, R424). -/
def Accum.next (a : Accum) (running : Nat) : Accum :=
  { energy := 0, fraction := a.fraction, cumEnergy := a.cumEnergy + a.energy, work := []
    remainder := [0, 1, 2, 3].foldl (fun m c => SMap.set 0 m c (a.macs c % 2 ^ 20)) []
    cumWork := [0, 1, 2, 3].foldl (fun m c => SMap.set 0 m c (SMap.get 0 a.cumWork c + a.macs c / 2 ^ 20)) []
    start := running, flags := a.flags &&& 2 ^ flagUtc }

/-- A stored body signed and readable (16 R424 orders 3 to 5); without an index it stays unsigned (16 R426). -/
def Wb.signClosed (w : Wb) : Wb :=
  match w.closed with
  | none => w
  | some body =>
    match w.takeIndex with
    | (some i, w) =>
      let body := patch (patch body 6 2 (field body 6 2 ||| 2 ^ flagSigned)) 140 4 i
      { w with closed := none, nextNumber := w.nextNumber + 1
               records := pushBounded 3072 w.records ⟨w.nextNumber, body, wbSignature i body⟩ }
    | (none, w) =>
      { w with closed := none, nextNumber := w.nextNumber + 1
               records := pushBounded 3072 w.records ⟨w.nextNumber, body, wbSignature 0xFFFFFFFF body⟩ }

/-- INTERVAL_CLOSE (16 R424 orders 1 and 2). A body still unsigned is signed first. -/
def execIntervalClose (s : State) : Host.Outcome State Fault Refusal :=
  .next (
    if s.power.pwrgood ∧ s.power.pllLocked then
      let s := { s with wb := s.wb.signClosed }
      let body := recordBody s
      { s with wb := { s.wb with closed := some body, accum := s.wb.accum.next s.wb.running } }
    else s)

/-- RECORD_SIGN (16 R424 orders 3 to 5). -/
def execRecordSign (s : State) : Host.Outcome State Fault Refusal :=
  .next (if s.power.pwrgood ∧ s.power.pllLocked ∧ s.wb.restarting = false then { s with wb := s.wb.signClosed } else s)

/-- WEIGHBRIDGE_WATCHDOG (16 R418). -/
def execWeighbridgeWatchdog (s : State) : Host.Outcome State Fault Refusal :=
  .next (
    if s.power.pwrgood ∧ s.wb.restarting = false then
      let w := s.wb.mark flagRestart
      { s with wb := { w with restarting := true } }
    else s)

/-- What a loss of power leaves (16 R423, R424, R426): the checkpoint resumed, a new interval with POWER_LOSS, reserved indices
skipped. -/
def Wb.powerLost (w : Wb) : Wb :=
  let (running, a) := w.checkpoint.getD (0, {})
  { w with running := running
           accum := { a with start := running, flags := (a.flags ||| 2 ^ flagPowerLoss) &&& (2 ^ 16 - 1 - 2 ^ flagUtc) }
           sigNext := w.sigEnd, challenge := none, restarting := false, waiting := [] }

/-! ### Messages (16 R428 to R431) -/

/-- What a request answers: the state, the status and the reply's bytes from byte 4. -/
abbrev Answer := State × Status × List Byte

def oldest (w : Wb) : Nat := ((w.records.head?).map Record.number).getD 0
def newest (w : Wb) : Nat := ((w.records.getLast?).map Record.number).getD 0

/-- WB_READOUT kind 0. -/
def wbRecord (s : State) (arg : Nat) : Answer :=
  match s.wb.records.find? fun r => r.number == arg with
  | some r => (s, .ok, r.body ++ r.signature)
  | none => (s, .range, [])

/-- WB_READOUT kind 1. -/
def wbIdentification (s : State) : Answer :=
  let w := s.wb
  (s, .ok, leBytes 4 Config.weighbridgeVersion.toNat ++ digestBytes Config.weighbridgeDigest ++ leBytes 8 s.mgmt.fuses.serial.toNat
    ++ leBytes 1 (b2n s.mgmt.fuses.legal) ++ zeros 3 ++ leBytes 4 w.auditCount ++ leBytes 8 (oldest w) ++ leBytes 8 (newest w)
    ++ leBytes 4 (wbIndices - w.sigNext) ++ leBytes 4 (1024 - w.audits.length))

/-- The weighbridge's public key, of one level of H20 over W4 (16 R426), followed by its certificate. -/
def wbCertified : List Byte := hssKey 1 8 3 Config.weighbridgeId Config.weighbridgeRoot ++ Config.weighbridgeCertificate

/-- WB_READOUT kind 2. An offset at or beyond the end answers no byte. -/
def wbCertificate (s : State) (arg : Nat) : Answer :=
  (s, .ok, leBytes 4 wbCertified.length ++ (wbCertified.drop arg).take 4000)

/-- WB_READOUT kind 3. -/
def wbAudit (s : State) (arg : Nat) : Answer :=
  match s.wb.audits.find? fun a => a.counter == arg with
  | some a => (s, .ok, a.body ++ a.signature)
  | none => (s, .range, [])

/-- WB_READOUT kind 4: a fresh nonce (log 3). -/
def wbChallenge (s : State) : Answer :=
  let n := BitVec.ofNat 256 (Config.freeBits 7 s.fresh)
  ({ s with wb := { s.wb with challenge := some n }, fresh := s.fresh + 1 }, .ok, digestBytes n)

/-- WB_UTC (16 R429). -/
def wbUtc (s : State) (utc : Nat) : Answer :=
  if 2 ^ 63 ≤ utc then (s, .range, [])
  else
    let w := s.wb.mark flagUtc
    ({ s with wb := { w with utc := utc, utcAt := w.running } }, .ok, [])

/-- An audit entry's body (16 R431). -/
def auditBody (w : Wb) (ch source index gain offset : Nat) : List Byte :=
  let c := SMap.get {} w.cals ch
  leBytes 4 0x41575154 ++ leBytes 4 (w.auditCount + 1) ++ leBytes 8 w.running ++ leBytes 8 w.utc ++ leBytes 8 w.utcAt
    ++ leBytes 1 ch ++ leBytes 1 source ++ zeros 2 ++ leBytes 4 c.gain ++ leBytes 4 (ofSigned 32 c.offset) ++ leBytes 4 gain
    ++ leBytes 4 offset ++ leBytes 4 index ++ zeros 8

/-- WB_CALIBRATE (16 R430): `p` is the payload, of 16 or 1,664 bytes. -/
def wbCalibrate (s : State) (p : List Byte) : Answer :=
  let ch := field p 0 1
  let gain := field p 4 4
  let offset := field p 8 4
  let token := 1664 ≤ p.length
  let msg := leBytes 4 0x43575154 ++ leBytes 8 s.mgmt.fuses.serial.toNat ++ slice p 16 32 ++ slice p 0 16
  let good :=
    if token then (s.wb.challenge.map digestBytes == some (slice p 16 32)) && hssOk .calibration (horxaKey s factoryKey) msg (slice p 48 1616)
    else !s.mgmt.fuses.legal
  let s := if token then { s with wb := { s.wb with challenge := none } } else s
  if 7 < ch ∨ gain < 0x3999999A ∨ 0x46666666 < gain ∨ toSigned 32 offset < -4096 ∨ 4095 < toSigned 32 offset then (s, .range, [])
  else if !good then (s, .signature, [])
  else
    match s.wb.takeIndex with
    | (some i, w) =>
      if 1024 ≤ w.audits.length then (s, .stateExhausted, [])
      else
        let body := auditBody w ch (b2n token) i gain offset
        let w := w.mark flagCal
        ({ s with wb := { w with
            auditCount := w.auditCount + 1
            audits := w.audits ++ [⟨w.auditCount + 1, body, wbSignature i body⟩]
            cals := SMap.set {} w.cals ch ⟨gain, toSigned 32 offset⟩ } }, .ok, leBytes 4 (w.auditCount + 1))
    | (none, _) => (s, .stateExhausted, [])

end Sys2Proof.Machine
end

