-- ==== Sys2Proof/Machine/Board.lean ====
section
/-! DEFINITION. The board's FRU EEPROM (10 R276): its common header and areas as IPMI's Platform Management FRU Information Storage
Definition 1.0 lays them out (log 18), and Horxa's record in it. -/
namespace Sys2Proof.Machine

/-- Whether bytes add up to zero modulo 256, as a checksum byte makes them. -/
def sumsToZero (bs : List Byte) : Bool := (bs.map BitVec.toNat).sum % 256 == 0

/-- An area of the EEPROM by the byte of the common header that gives its offset in multiples of 8 bytes; an area's second byte
gives its length so too. -/
def fruArea (e : List Byte) (k : Nat) : Option (List Byte) :=
  let off := 8 * field e k 1
  if off = 0 then none else some ((e.drop off).take (8 * field e (off + 1) 1))

/-- Whether an area that is present ends within the EEPROM with its checksum right. -/
def fruAreaOk (e : List Byte) (k : Nat) : Bool :=
  match fruArea e k with
  | some a => !a.isEmpty && a.length == 8 * field a 1 1 && sumsToZero a
  | none => true

/-- At most n type/length fields of an area, each with the byte before it; 0xC1 ends them. -/
def fruFields : Nat → List Byte → List (List Byte)
  | 0, _ => []
  | _ + 1, [] => []
  | n + 1, t :: bs => if t = 0xC1 then [] else (t :: bs.take (t.toNat % 64)) :: fruFields n (bs.drop (t.toNat % 64))

/-- The multi-records: type and data of each, and whether all checksums are right. -/
def fruRecords : Nat → List Byte → List (Nat × List Byte) × Bool
  | 0, _ => ([], false)
  | n + 1, bs =>
    let len := field bs 2 1
    let data := (bs.drop 5).take len
    let ok := decide (5 + len ≤ bs.length) && sumsToZero (bs.take 5) && sumsToZero (data ++ (bs.drop 3).take 1)
    if !ok then ([], false)
    else if bit (field bs 1 1) 7 then ([(field bs 0 1, data)], true)
    else
      let (more, ok) := fruRecords n (bs.drop (5 + len))
      ((field bs 0 1, data) :: more, ok)

/-- What the board says. -/
structure Board where
  h0Fitted : Bool
  masks    : List Nat
  port     : Nat
  info     : List Byte
  deriving DecidableEq, Repr

/-- The common header: version 1 and its checksum. -/
def fruHeaderOk (e : List Byte) : Bool := decide (8 ≤ e.length) && field e 0 1 % 16 == 1 && sumsToZero (e.take 8)

/-- The data of Horxa's record after the manufacturer's number: of OEM type, with no reserved bit set. -/
def boardRecord (rs : List (Nat × List Byte)) : Option (List Byte) :=
  let mine := rs.find? fun r => decide (0xC0 ≤ r.1) && r.2.take 3 == leBytes 3 Config.boardMaker.toNat
  (mine.map fun r => r.2.drop 3).filter fun d =>
    decide (13 ≤ d.length) && field d 0 1 < 2 && (List.range 6).all fun k => field d (1 + 2 * k) 2 < 1024

/-- The EEPROM read; none when it fails a check or says nothing (10 R276). -/
def parseBoard (e : List Byte) : Option Board :=
  let (rs, ok) := if field e 5 1 = 0 then ([], true) else fruRecords 64 (e.drop (8 * field e 5 1))
  if !fruHeaderOk e || !([2, 3, 4].all fun k => fruAreaOk e k) || !ok then none
  else
    (boardRecord rs).map fun d =>
      { h0Fitted := field d 0 1 == 1, masks := (List.range 6).map fun k => field d (1 + 2 * k) 2, port := field d 13 2
        info := (((fruArea e 3).map fun a => fruFields 4 (a.drop 6)).getD []).flatten }

end Sys2Proof.Machine
end

