-- ==== Sys2Proof/Machine/Boot.lean ====
section
/-! DEFINITION. Boot (14 R369 to R375), package warm resets and power (15 R411, R412; 17 R436, R441; 01 R26), firmware processors
(14 R376, R377), and flash writes in the background (02 R66; 14 R389; 15 R393). -/
namespace Sys2Proof.Machine

/-! ### Live lists and the stacks (08 R208; 09 R246) -/

/-- A state under the placement that a record of retained contents has. -/
def underPlacement (s : State) (r : Retained) : State :=
  { s with mem := { s.mem with live := r.live }, fields := { s.fields with near := r.near, seed := r.seed } }

/-- Retained contents of the granules that p keeps. -/
def Retained.keep (r : Retained) (p : Nat → Bool) : Retained :=
  { r with cells := r.cells.filter fun c => p (c.1 / 256), flips := r.flips.filter fun x => p (x.1 / 16) }

/-- All that is retained cut to the granules that p keeps of each record. -/
def keepRetained (s : State) (p : Retained → Nat → Bool) : State :=
  { s with mem := { s.mem with
      retained := s.mem.retained.keep (p s.mem.retained), away := s.mem.away.map fun r => r.keep (p r) } }

/-- Every interleaved granule, and every near granule of a channel's quarter, is undefined once the channel is mapped out (09
R246). -/
def forgetMoved (s : State) (c : Nat) : State :=
  keepRetained s fun r g => ((nearQuarter (underPlacement s r) g).map (· != c / 128)).getD false

/-- The row and page entries of a channel deleted (09 R246). -/
def dropEntries (s : State) (c : Nat) : State :=
  { s with mem := { s.mem with
      retired := s.mem.retired.filter fun e => !(entryChannel e == c && (entryKind e == 1 || entryKind e == 2)) } }

/-- A channel mapped out: a KIND 3 entry is appended, then the channel's others are deleted (09 R246). A full list has room for
the entry only after the deletion, or for none (09 R245; log 18). -/
def mapOut (s : State) (c : Nat) : State :=
  let full := 4096 ≤ s.mem.retired.length
  let s := forgetMoved (setChannel s c { channelAt s c with mappedOut := true, marked := false }) c
  let s := dropEntries (if full then s else appendEntry s 3 c 0) c
  if full ∧ s.mem.retired.length < 4096 then appendEntry s 3 c 0 else s

/-- The channels of quarters trained: those marked and those that fail are mapped out. -/
def trainStacks (s : State) (qs : List Nat) (bad : List Nat) : State :=
  ((List.range 512).filter fun c =>
    qs.contains (c / 128) && !(channelAt s c).mappedOut && ((channelAt s c).marked || bad.contains c)).foldl mapOut s

/-- The channels that a set of quarters in service offers. -/
def liveOf (s : State) (qs : List Nat) : List Nat :=
  (List.range 512).filter fun c => qs.contains (c / 128) && !(channelAt s c).mappedOut

/-- A granule's place under what was retained. -/
def retainedPlace (s : State) (r : Retained) (g : Nat) : Nat × Nat := placement (underPlacement s r) g

/-- The slots that stack memory as it lists them has written, channel and row. -/
def writtenSlots (s : State) : List (Nat × Nat) :=
  (((s.mem.bytes.cells.filter fun c => c.1 < scratchBase).map fun c => c.1 / 256).eraseDups).map (placement s)

/-- What early service has overwritten is no longer retained (14 R374; 15 R412 note a). -/
def dropOverwritten (s : State) : State :=
  let slots := writtenSlots s
  keepRetained s fun r g => !slots.contains (retainedPlace s r g)

/-- Stack memory that no address holds any more: its contents become undefined where nothing retains them. -/
def forgetStacks (s : State) : State :=
  let stack := fun (a : Nat) => decide (a < scratchBase)
  { s with mem := { s.mem with
      bytes := { s.mem.bytes with cells := s.mem.bytes.cells.filter fun c => !stack c.1, era := s.mem.bytes.era + 1 }
      flips := s.mem.flips.filter fun p => !stack (16 * p.1) } }

/-- Stack memory set aside when early service takes another live list. -/
def retainStacks (s : State) : State :=
  let stack := fun (a : Nat) => decide (a < scratchBase)
  forgetStacks { s with mem := { s.mem with
      retained := { cells := s.mem.bytes.cells.filter fun c => stack c.1, flips := s.mem.flips.filter fun p => stack (16 * p.1)
                    live := s.mem.live, near := s.fields.near, seed := s.fields.seed } } }

/-- A record of retained contents brought back to the addresses that the placement in force puts where they were; bytes written
since stay. -/
def restoreOne (s : State) (r : Retained) : State :=
  let r := r.keep fun g =>
    let p := retainedPlace s r g
    s.mem.live.contains p.1 && decide (256 * g < stackTop s) && p == placement s g
  let free := fun (a : Nat) => (cellAt s.mem.bytes.cells a).isNone
  { s with mem := { s.mem with
      bytes := (r.cells.filter fun c => free c.1).foldl (fun b c => b.write c.1 c.2) s.mem.bytes
      flips := (r.flips.filter fun p => free (16 * p.1)).foldl (fun m p => SMap.set 0 m p.1 p.2) s.mem.flips } }

/-- Retained contents on channels that are not live because their quarters are out of service (08 R208). -/
def stillAway (s : State) (r : Retained) : Retained :=
  r.keep fun g =>
    let c := (retainedPlace s r g).1
    !s.mem.live.contains c && !(channelAt s c).mappedOut

/-- What was retained comes back, but for what channels hold that are not live, which they keep (08 R208). -/
def restoreStacks (s : State) : State :=
  let all := s.mem.retained :: s.mem.away
  let t := all.foldl restoreOne s
  { t with mem := { t.mem with
      retained := {}, away := (all.map (stillAway s)).filter fun r => !r.cells.isEmpty || !r.flips.isEmpty } }

/-! ### What a reset takes (15 R412) -/

/-- The ports and ring links as a reset of the package leaves them before training; counters are kept. -/
def Port.off (p : Port) : Port :=
  { p.discard with state := .absent, modules := 0, miswired := 0, peerSerial := 0, peerPort := 7, inCap := false, lastStatus := .ok
                   snapshots := [], idents := [], absent := 0 }
def Ring.off (r : Ring) : Ring := { counters := r.counters }

/-- A package warm reset's effect up to its boot (15 R411, R412); `send` says that ABANDON flits go out (11 R294). -/
def warmClear (send : Bool) (s : State) : State :=
  let s := resetFields send s (loadedFields s)
  let s := loseTiles s 0 2304
  let s := if s.mgmt.service = .full then retainStacks s else forgetStacks (dropOverwritten s)
  let s := { s with
    tiles := { s.tiles with ctxs := [], table := [], tableCopy := [], queues := [], putBack := [], quarantine := [], level := []
                            checks := [], checkSteps := [], droop := [] }
    fields := { s.fields with near := [], splits := [], chaffFloor := 30 }
    mem := { s.mem with
      lofts := SMap.mapAll {} s.mem.lofts fun _ l => { l with lines := [], places := [], flips := [], fills := [] }
      logs := [] }
    ports := { s.ports with
      h0State := .absent, h0Lanes := 0, h0Last := .ok, paused := [], held := [], pausing := [], stalled := [], qps := []
      h0Snapshot := []
      ports := SMap.mapAll {} s.ports.ports fun _ p => p.off, rings := SMap.mapAll {} s.ports.rings fun _ r => r.off }
    power := { s.power with
      quarters := SMap.mapAll {} s.power.quarters fun _ x => { x.reset with inReset := false, inService := false, offset := 0 }
      tripped := false, state := .run }
    mgmt := { s.mgmt with
      service := .off, passage := false, trained := none, sessions := [], restarts := [], restarting := [], waiting := [], parked := []
      waitBytes := 0
      standWrite := none, sigNext := s.mgmt.sigEnd, pack := none, resetReply := [] }
    out := if s.power.tripped then .thermtrip false :: s.out else s.out }
  spreadBudgets s

/-- What power loss leaves: flash, fuses, the weighbridge's partition, the channels mapped out and their spares (14 R370, R371;
15 R412; 16 R423). -/
def powerClear (s : State) : State :=
  { mgmt := { eid := s.mgmt.eid, slots := s.mgmt.slots, active := s.mgmt.active, pendingFw := s.mgmt.pendingFw
              standing := s.mgmt.standing, standMark := s.mgmt.standMark, imageKey := s.mgmt.imageKey
              netRecord := s.mgmt.netRecord, sigEnd := s.mgmt.sigEnd, sigNext := s.mgmt.sigEnd, trees := s.mgmt.trees
              fuses := s.mgmt.fuses, log := s.mgmt.log, nextRecord := s.mgmt.nextRecord }
    mem := { bytes := { era := s.mem.bytes.era + 1 }, retired := s.mem.retired, retireSeq := s.mem.retireSeq
             channels := SMap.mapAll {} s.mem.channels fun _ c => { mappedOut := c.mappedOut, marked := c.marked, spares := c.spares } }
    wb := s.wb.powerLost
    pending := s.pending
    out := if s.power.tripped then .thermtrip false :: s.out else s.out
    fresh := s.fresh }

/-- TQ_PWRGOOD_FALLING (17 R436). -/
def execTqPwrgoodFalling (s : State) : Host.Outcome State Fault Refusal :=
  .next (if s.power.pwrgood then powerClear s else s)

/-! ### Boot to early service (14 R371, R372) -/

/-- Whether the ROM accepts a bundle (14 R372). -/
def Bundle.accepted (s : State) (b : Bundle) : Bool := b.authentic && decide (s.mgmt.fuses.security ≤ b.security)

def bundleAt (s : State) (k : Nat) : Option Bundle := (SMap.get none s.mgmt.slots k).filter (Bundle.accepted s)

/-- The slots that the ROM tries, in order. -/
def bootSlots (s : State) : List Nat :=
  match s.mgmt.pendingFw with
  | some k => [k, 1 - k]
  | none => [s.mgmt.active, 1 - s.mgmt.active]

/-- The record of a board or flash event (15 R398 class 0x13): UNIT_INDEX under R397. -/
def boardFault (s : State) (index detail : Nat) : State :=
  logFault s { mkFault s 0x13 .ok 0 with unitClass := 0x11, unitIndex := index, detail := BitVec.ofNat 512 detail }

/-- A flash region whose check values fail: empty, and recorded (14 R370; log 18). -/
def emptyRegion (s : State) (k : Nat) : State :=
  let m := s.mgmt
  let s := match k with
    | 0 => { s with mgmt := { m with active := 0, pendingFw := none, standMark := none } }
    | 1 => { s with mgmt := { m with slots := SMap.erase m.slots 0 } }
    | 2 => { s with mgmt := { m with slots := SMap.erase m.slots 1 } }
    | 3 => { s with mem := { s.mem with
        retired := [], retireSeq := none, channels := SMap.mapAll {} s.mem.channels fun _ c => { c with mappedOut := false } } }
    | 4 => { s with mgmt := { m with log := [] } }
    | 5 => { s with mgmt := { m with sigEnd := 0, sigNext := 0 } }
    | 6 => { s with mgmt := { m with imageKey := none } }
    | 7 => { s with mgmt := { m with netRecord := none } }
    | 8 => { s with mgmt := { m with trees := m.sigNext / 2 ^ 20 } }
    | 10 => { s with mgmt := { m with standing := SMap.erase m.standing 0 } }
    | 11 => { s with mgmt := { m with standing := SMap.erase m.standing 1 } }
    | _ => s
  boardFault s k 0

/-- The flash read at a boot. The weighbridge reads its partition when it starts, which a power-on reset makes it do. -/
def readFlash (s : State) (env : BootEnv) : State := (env.flashBad.eraseDups.filter (· < 12)).foldl emptyRegion s

/-- The FRU EEPROM read (10 R276; 14 R371 order 5). -/
def readBoard (s : State) (env : BootEnv) : State :=
  match env.eeprom.bind parseBoard with
  | some b =>
    { s with ports := { s.ports with
        h0Fitted := b.h0Fitted, fitted := b.masks.zipIdx.foldl (fun m x => SMap.set 0x3FF m x.2 (BitVec.ofNat 10 x.1)) []
        boardPort := if b.port = 0 then 46100 else b.port, board := b.info } }
  | none => boardFault { s with ports := { s.ports with h0Fitted := true, fitted := [], boardPort := 46100, board := [] } } 0x100 0

/-- The network configuration of the stored record, or the defaults (14 R384 SET_NET). -/
def bootNet (s : State) : State :=
  let n := s.mgmt.netRecord.getD {}
  { s with ports := { s.ports with net := { n with udpPort := if n.udpPort = 0 then s.ports.boardPort else n.udpPort } } }

/-- Tiles that fail their test are quarantined (15 R402). -/
def testTiles (s : State) (qs : List Nat) (bad : List Nat) : State :=
  (bad.filter fun t => t < 2304 && qs.contains (tileQuarter t)).foldl (fun s t => quarantineTile s t 3) s

/-- Quarters put in or out of service. -/
def setService (s : State) (qs : List Nat) : State :=
  [0, 1, 2, 3].foldl (fun s q => setQuarter s q { quarterOf s q with inService := qs.contains q }) s

/-- A write of a module's page 10h, which selects its application (10 R272, R275). -/
def selectModule (k : Nat) (s : State) (m : Nat) : State := { s with out := .select k m :: s.out }

/-- H0 in early service (10 R256). -/
def bootH0 (s : State) (env : BootEnv) : State :=
  if !s.ports.h0Fitted then setH0 s .absent 0 else if env.h0At200 then h0Up (selectModule 6 s 0) 1 else setH0 s .down 0

/-- A quarter mask. -/
def quarterMask (qs : List Nat) : Nat := maskOf 4 fun q => qs.contains q

/-- The capability word of early service (02 R57). -/
def earlyWord (s : State) (qs : List Nat) : BitVec 64 :=
  BitVec.ofNat 64 (pack [(0, s.mem.live.length), (16, quarterMask qs), (20, 3), (24, 1)])

/-- Orders 2 to 8 of 14 R371: early service, or recovery. -/
def bootEarly (env : BootEnv) (s : State) : State :=
  let s := readFlash s env
  let other := fun (s : State) => logFault s { mkFault s 0x12 .ok 0 with unitClass := 0x11, unitIndex := 1, detail := 1 }
  match (bootSlots s).find? fun k => (bundleAt s k).isSome with
  | none => let s := other s; { s with mgmt := { s.mgmt with service := .recovery, capWord := 0, bundle := none } }
  | some k =>
    let s := if some k = (bootSlots s).head? then s else other s
    let b := (bundleAt s k).getD shippedBundle
    let pending := s.mgmt.pendingFw
    let s := { s with mgmt := { s.mgmt with bundle := some b, release := b.release } }
    let s := bootNet (readBoard s env)
    let ok := !env.badQuarters.contains 0
    let s := trainStacks s [0] env.badChannels
    let qs := if ok then [0] else []
    let s := setService { s with mem := { s.mem with live := liveOf s qs } } qs
    let s := bootH0 (testTiles s qs env.badTiles) env
    { s with mgmt := { s.mgmt with
        service := .early, capWord := earlyWord s qs
        active := if pending = some k then k else s.mgmt.active, pendingFw := if pending = some k then none else pending } }

/-- POWER_ON_RESET (14 R371): TQ_PWRGOOD rises. -/
def execPowerOnReset (env : BootEnv) (s : State) : Host.Outcome State Fault Refusal :=
  .next (
    if s.power.pwrgood then s
    else
      let s := powerClear s
      let wb := if env.flashBad.contains 9 then ({} : Wb).powerLost else s.wb
      let s := { s with power := { s.power with pwrgood := true }, wb := wb.signClosed }
      bootEarly env s)

/-! ### Full service (14 R373) -/

/-- The die-to-die links trained (14 R373 order 1; 10 R278). -/
def trainRing (s : State) (env : BootEnv) : State :=
  [0, 1, 2, 3].foldl (fun s l =>
    let (a, b) := env.ringMasks.getD l (BitVec.ofNat 18 0x3FFFF, BitVec.ofNat 18 0x3FFFF)
    let s := setRing s l ((ringOf s l).retrain a b)
    if a = b then s else ringFault s l 0) s

/-- The quarters of some trained ones that B0 reaches (14 R373; 01 R19). -/
def reachedQuarters (s : State) (qs : List Nat) : List Nat := qs.filter fun q => !ringSplit s || ringReaches s 0 q

/-- The quarters whose stacks and tiles have trained; Q0's did so before early service (14 R371, R373). -/
def trainedQuarters (s : State) (env : BootEnv) : List Nat :=
  [0, 1, 2, 3].filter fun q => !env.badQuarters.contains q && (q != 0 || (quarterOf s 0).inService)

/-- A Filub port trained at full service (10 R272, R273): each module's application selected, its lanes trained, IDENT sent on each
and what the peers' IDENT say heard. -/
def trainPort (env : BootEnv) (qs : List Nat) (s : State) (k : Nat) : State :=
  let p := portOf s k
  let fitted := SMap.get 0x3FF s.ports.fitted k
  let mods := env.modules.getD k 0 &&& fitted &&& ~~~p.absent
  if !qs.contains (portQuarter k) ∨ fitted = 0 then s
  else
    let s := (upTo 10 fun m => bit (fitted &&& ~~~p.absent).toNat m).foldl (selectModule k) s
    if mods = 0 then setPort s k { p with state := .down }
    else
      let s := sendIdents (setPort s k { p.count 7 1 with modules := mods, state := .training, idents := [] }) k
      let s := (List.range 10).foldl (fun s m =>
        match (env.idents.getD k []).getD m none with
        | some d => moduleIdent s k m d
        | none => s) s
      setPort s k { portOf s k with inCap := (portOf s k).modules != 0 }

/-- H0's rate on entry to full service (10 R256). -/
def fullH0 (s : State) (env : BootEnv) : State :=
  if !s.ports.h0Fitted || s.ports.h0State == .absent || !env.h0At1600 then s
  else
    let s := selectModule 6 s 0
    if env.h0Up1600 then h0Up s 8 else s

/-- The capability word of full service (02 R56, R57). -/
def fullWord (s : State) (qs : List Nat) (hostFull : Bool) : BitVec 64 :=
  BitVec.ofNat 64 (pack [(0, s.mem.live.length), (16, quarterMask qs), (24, 0x7F),
    (32, maskOf 6 fun k => (portOf s k).inCap), (38, b2n hostFull)])

/-- Orders 1 to 4 of full-service bring-up (14 R373). -/
def bringUp (env : BootEnv) (s : State) : State :=
  let s := trainRing s env
  let qs := trainedQuarters s env
  let s := trainStacks s (qs.filter (· != 0)) env.badChannels
  let s := testTiles s (qs.filter (· != 0)) env.badTiles
  let s := (List.range 6).foldl (trainPort env (reachedQuarters s qs)) s
  { s with mgmt := { s.mgmt with trained := some qs } }

/-- Orders 5 and 6 (14 R373). -/
def passToFull (env : BootEnv) (s : State) : State :=
  let qs := reachedQuarters s (s.mgmt.trained.getD [])
  let s := dropOverwritten (resetFields true s (loadedFields s))
  let s := forgetStacks (loseTiles s 0 2304)
  let s := { s with mem := { s.mem with live := liveOf s qs } }
  let s := fullH0 (setService s qs) env
  let s := { s with
    fields := { s.fields with near := [] }
    mgmt := { s.mgmt with
      service := .full, passage := true, trained := none, capWord := fullWord s qs (decide (s.ports.h0Lanes = 8)) } }
  resumeStalled (restoreStacks (applyStanding (spreadBudgets s)))

/-- Full-service bring-up and passage: what an earlier entry has trained while the package was held is not trained again. -/
def enterFull (env : BootEnv) (s : State) : State := passToFull env (if s.mgmt.trained.isSome then s else bringUp env s)

/-- FULL_SERVICE_ENTRY (14 R373). While an OPEN refused holds the package, orders 1 to 4 run and the others wait (14 R380). -/
def execFullServiceEntry (env : BootEnv) (s : State) : Host.Outcome State Fault Refusal :=
  .next (
    if s.power.pllLocked ∧ s.power.tripped = false ∧ processorRuns s 0 then
      if s.mgmt.service = .early then enterFull env s
      else if s.mgmt.service = .earlyHeld ∧ s.mgmt.trained = none then bringUp env s
      else s
    else s)

/-! ### Package warm resets (15 R411; 14 R375) -/

/-- The records of what called for a warm reset, written after it (15 R394, R398; 17 R436, R441). A reset that was asked for has no
fault that caused it, so its record is not marked as one about a previous error (log 22). -/
def warmFault (s : State) (c : ResetCause) : State :=
  let base := { mkFault s 0x0F .ok 0 with fatal := true, previous := true }
  match c with
  | .clockLoss => logFault s { base with detail := 1, unitClass := 0x12 }
  | .supply q r => logFault s { mkFault s 0x0F .ok q with fatal := true, previous := true, detail := 2, unitClass := 0x0E, unitIndex := r }
  | .watchdog => logFault s { base with detail := 3, unitClass := 0x10 }
  | .fatal => logFault s { base with detail := 4, unitClass := 0x10 }
  | .restartProc => logFault s { base with previous := false, detail := 5, unitClass := 0x10 }
  | .repeated p => logFault s { base with detail := 6, unitClass := 0x10, unitIndex := p }
  | .message => logFault s { base with previous := false, detail := 7 }
  | .computeDie => logFault s { base with detail := 8 }
  | .ringSplit => s
  | .warmPin => logFault s { base with previous := false, detail := 10 }
  | .overVoltage q r => logFault s { mkFault s 0x0D .ok q with
      previous := true, detail := BitVec.ofNat 512 (2 ^ r), unitClass := 0x0E, unitIndex := r }
  | .recovery => s

/-- A warm reset carried out, with the records of its causes. -/
def warmBoot (env : BootEnv) (s : State) : State :=
  let causes := s.power.warmDue.eraseDups
  let s := { s with power := { s.power with warmDue := [] } }
  causes.foldl warmFault (bootEarly env s)

/-- Whether a tripped package holds a warm reset off (13 R366). -/
def heldOff (s : State) : Bool := s.power.tripped && s.power.temps.any fun t => decide (95 < t.2)

/-- PACKAGE_WARM_RESET (15 R411; 14 R375): one that has been called for. -/
def execPackageWarmReset (env : BootEnv) (s : State) : Host.Outcome State Fault Refusal :=
  .next (
    if s.power.pwrgood ∧ s.power.warmDue ≠ [] ∧ s.power.pllLocked ∧ !heldOff s then warmBoot env (warmClear true s) else s)

/-- WARM_RESET_INPUT (17 R436): the whole pulse, at its rising edge. -/
def execWarmResetInput (s : State) : Host.Outcome State Fault Refusal :=
  .next (if s.power.pwrgood then callWarm s .warmPin else s)

/-- SUPPLY_RESET (13 R361): the core rails that fell in one microsecond. -/
def execSupplyReset (quarter : Nat) (rails : List Nat) (s : State) : Host.Outcome State Fault Refusal :=
  .next (
    if s.power.pwrgood ∧ quarter < 4 then (rails.filter (· < 2)).foldl (fun s r => callWarm s (.supply quarter r)) s else s)

/-- RAIL_OUT_OF_RANGE (17 R441). -/
def execRailOutOfRange (event : RailEvent) (s : State) : Host.Outcome State Fault Refusal :=
  .next (
    if s.power.pwrgood then
      match event with
      | .low q r => if q < 4 ∧ (r = 2 ∨ r = 3) then callWarm s (.supply q r) else s
      | .auxLow => powerClear s
      | .high q r => if q < 4 ∧ r < 4 then callWarm s (.overVoltage q r) else s
    else s)

/-- REFERENCE_LOSS (01 R26): tclk stops and the package is in reset until the PLL locks; no ABANDON flit goes out (11 R294). A
tripped package that is hot holds the reset off (13 R366). -/
def execReferenceLoss (s : State) : Host.Outcome State Fault Refusal :=
  .next (
    if s.power.pwrgood ∧ s.power.pllLocked then
      let s := { s with wb := s.wb.mark flagGap }
      let s := callWarm (if heldOff s then s else warmClear false s) .clockLoss
      { s with power := { s.power with pllLocked := false } }
    else s)

/-- PLL_RELOCK (14 R375; 01 R26). A reset held off goes on waiting (13 R366). -/
def execPllRelock (env : BootEnv) (s : State) : Host.Outcome State Fault Refusal :=
  .next (
    if s.power.pwrgood ∧ s.power.pllLocked = false then
      let s := { s with power := { s.power with pllLocked := true } }
      if heldOff s then s else warmBoot env (if s.mgmt.service = .off then s else warmClear false s)
    else s)

/-! ### Firmware processors (14 R376, R377) -/

/-- The record of a processor's restart (15 R398 class 0x0F). -/
def restartFault (s : State) (p cause : Nat) : State :=
  logFault s { mkFault s 0x0F .ok (processorQuarter p) with
    unitClass := 0x10, unitIndex := p, detail := BitVec.ofNat 512 cause }

/-- What a processor loses when it restarts (14 R376; 13 R367). -/
def processorLoss (s : State) (p : Nat) : State :=
  if p = 0 then
    { s with mgmt := { s.mgmt with
        sessions := [], parked := [], standWrite := none, sigNext := s.mgmt.sigEnd, resetReply := [] } }
  else if p ≤ 4 then
    setQuarter s (p - 1) { quarterOf s (p - 1) with power := [], disagree := 0, agree := 0, cool := 0, stackCool := 0, filling := 9 }
  else s

/-- sclk ticks in ten minutes. -/
def tenMinutes : Nat := 60000000000

/-- Processor p restarts alone; the fourth time within ten minutes resets its quarter, or the package (14 R376, R377). -/
def restartProcessor (s : State) (p cause : Nat) : State :=
  let s := processorLoss (restartFault s p cause) p
  let times := ((SMap.get [] s.mgmt.restarts p).filter fun t => s.power.sclk < t + tenMinutes) ++ [s.power.sclk]
  let s := { s with mgmt := { s.mgmt with
    restarts := SMap.set [] s.mgmt.restarts p times, restarting := SMap.set false s.mgmt.restarting p true } }
  if times.length < 4 then s
  else if p = 0 then callWarm s (.repeated 0)
  else
    let s := { s with mgmt := { s.mgmt with restarts := SMap.erase s.mgmt.restarts p } }
    if (quarterOf s (processorQuarter p)).inService then resetQuarter (restartFault s p 6) (processorQuarter p) else restartFault s p 6

/-- WATCHDOG_EXPIRY (14 R369, R376): of processors 0 to 8. -/
def execWatchdogExpiry (proc : Nat) (s : State) : Host.Outcome State Fault Refusal :=
  .next (
    if proc < 9 ∧ processorRuns s proc ∧ (s.mgmt.service = .early ∨ s.mgmt.service = .earlyHeld ∨ s.mgmt.service = .full) then
      restartProcessor s proc 3
    else s)

/-! ### Flash in the background (02 R66; 14 R389; 15 R393) -/

/-- STANDING_IMAGE_WRITE (02 R66). -/
def execStandingImageWrite (s : State) : Host.Outcome State Fault Refusal :=
  .next (match s.mgmt.standWrite with
    | some bs =>
      if processorRuns s 0 then
        let k := if s.mgmt.standMark = some 0 then 1 else 0
        { s with mgmt := { s.mgmt with
            standing := SMap.set none s.mgmt.standing k (some ⟨bs⟩), standMark := some k, standWrite := none } }
      else s
    | none => s)

/-- BOTTOM_TREE_BUILD (14 R389): the tree after the current one. -/
def execBottomTreeBuild (s : State) : Host.Outcome State Fault Refusal :=
  .next (
    if s.power.pwrgood ∧ processorRuns s 0 ∧ s.mgmt.trees ≤ s.mgmt.sigNext / 2 ^ 20 + 1 ∧ s.mgmt.trees < 2 ^ 20 then
      { s with mgmt := { s.mgmt with trees := s.mgmt.trees + 1 } }
    else s)

/-- FAULT_LOG_FLUSH (15 R393, R399): the log is writable once firmware runs. -/
def execFaultLogFlush (s : State) : Host.Outcome State Fault Refusal :=
  .next (
    if processorRuns s 0 ∧ (s.mgmt.service = .early ∨ s.mgmt.service = .earlyHeld ∨ s.mgmt.service = .full) then
      let log := s.mgmt.log ++ s.mgmt.buffer
      let lost := s.mgmt.lostFaults
      let s := { s with mgmt := { s.mgmt with log := log.drop (log.length - 32768), buffer := [], lostFaults := 0 } }
      if lost = 0 then s else logFault s { mkFault s 0x13 .ok 0 with detail := BitVec.ofNat 512 lost }
    else s)

end Sys2Proof.Machine
end

