-- ==== Sys2Proof/Machine/Records.lean ====
section
/-! DEFINITION. A fault record's 328 bytes (15 R393 to R396, R398) and the attestation quote's body (14 R391). The places of the
header's fields and the byte order of its GUIDs are those of the UEFI specification's Appendix N (log 19). -/
namespace Sys2Proof.Machine

/-- The severity of a record (15 R394, R398): 0 recoverable, 1 fatal, 2 corrected, 3 informational. -/
def Fault16.severity (r : Fault16) : Nat :=
  if r.cls = 0x0E ∧ r.fatal then 1
  else if r.cls = 0x0F then (if r.fatal then 1 else 3)
  else if [0x01, 0x05, 0x0C].contains r.cls then 2
  else if [0x04, 0x0A, 0x0B, 0x0D, 0x12, 0x13].contains r.cls then 3
  else 0

/-- A GUID's 16 bytes: its first three numbers little-endian, then its last eight bytes as written. -/
def guid (a b c : Nat) (rest : List Byte) : List Byte := leBytes 4 a ++ leBytes 2 b ++ leBytes 2 c ++ rest

/-- Creator ID and Notification Type (15 R394). -/
def creatorId : List Byte := guid 0x9B1E6D30 0x72A4 0x4C0F [0x8E, 0x55, 0xC2, 0xD1, 0x7A, 0x3F, 0x60, 0xB9]
/-- The section type (15 R395). -/
def sectionType : List Byte := guid 0x4F3A9C61 0x0D72 0x4B8E [0xA5, 0xC3, 0x17, 0xE0, 0xB9, 0xD2, 0x4F, 0x58]

/-- "TQ4-1280 Q" and the quarter's digit, padded to 20 bytes (15 R395). -/
def fruText (quarter : Nat) : List Byte :=
  [0x54, 0x51, 0x34, 0x2D, 0x31, 0x32, 0x38, 0x30, 0x20, 0x51, BitVec.ofNat 8 (0x30 + quarter)] ++ zeros 9

/-- The revision that UEFI 2.10's Appendix N gives a record's header and its section's descriptor: 1.1 (log 19). -/
def cperRevision : Nat := 0x0101

/-- The record header, bytes 0 to 127 (15 R394). -/
def Fault16.header (r : Fault16) : List Byte :=
  [0x43, 0x50, 0x45, 0x52] ++ leBytes 2 cperRevision ++ leBytes 4 0xFFFFFFFF ++ leBytes 2 1 ++ leBytes 4 r.severity
    ++ leBytes 4 0 ++ leBytes 4 328 ++ zeros 8 ++ zeros 16 ++ zeros 16 ++ creatorId ++ creatorId ++ leBytes 8 r.number
    ++ leBytes 4 (if r.previous then 2 else 0) ++ zeros 8 ++ zeros 12

/-- The section descriptor, bytes 128 to 199 (15 R395). -/
def Fault16.descriptor (r : Fault16) : List Byte :=
  leBytes 4 200 ++ leBytes 4 128 ++ leBytes 2 cperRevision ++ [0x02, 0] ++ leBytes 4 1 ++ sectionType ++ zeros 16
    ++ leBytes 4 r.severity ++ fruText r.quarter

/-- The Horxa section, bytes 200 to 327 (15 R396). -/
def Fault16.horxa (serial : BitVec 64) (r : Fault16) : List Byte :=
  leBytes 128 (pack [(0, r.status.code), (16, r.unitClass % 256), (24, r.cls % 256), (32, r.field % 256), (40, r.quarter % 4),
    (44, r.tile % 4096), (64, r.sclk % 2 ^ 64), (128, r.addr % 2 ^ 42), (192, r.syndrome % 65536), (208, r.unitIndex % 65536),
    (224, r.repeat_ % 256), (232, r.voffset % 256), (240, r.div % 4), (248, ofSigned 8 r.temp), (256, r.ctx % 16),
    (260, r.step % 4096), (272, r.count % 65536), (288, r.itemSeq.toNat), (320, r.imageId.toNat), (384, serial.toNat),
    (512, r.detail.toNat)])

/-- A whole record (15 R393, R395). -/
def Fault16.bytes (serial : BitVec 64) (r : Fault16) : List Byte := r.header ++ r.descriptor ++ r.horxa serial

/-- The records that READ_FAULTS returns from a number on (15 R393). -/
def readFaults (s : State) (first : Nat) : List Fault16 :=
  ((s.mgmt.log ++ s.mgmt.buffer).filter fun r => first ≤ r.number).take 12

/-! ### Quotes (14 R391) -/

/-- The digest of a key's bytes, or zeros. -/
def keyDigest (key : Option (List Byte)) : List Byte :=
  match key with
  | some k => shaBytes k
  | none => zeros 32

/-- One entry of 40 bytes for a field's last partial image. -/
def partialEntry (f : Nat) (m : ImageMark) : List Byte := leBytes 1 f ++ leBytes 1 (b2n m.checked) ++ zeros 6 ++ digestBytes m.digest

/-- The partial images' marks in the order of their fields. -/
def partialMarks (s : State) : List (Nat × ImageMark) := s.fields.partials.filterMap fun p => p.2.map fun m => (p.1, m)

/-- A quote's flags. -/
def quoteFlags (s : State) : Nat :=
  pack [(0, b2n (s.mgmt.scopes != 0)), (1, b2n s.mgmt.imageKey.isSome), (2, b2n s.mgmt.fuses.legal),
    (3, b2n ((s.fields.fullImage.map ImageMark.checked).getD false))]

/-- The digest of the firmware that a processor runs. -/
def runningDigest (s : State) (p : Nat) : List Byte :=
  if p = 9 then digestBytes Config.weighbridgeDigest
  else match s.mgmt.bundle with
    | some b => shaBytes (Config.firmware b.bytes p)
    | none => zeros 32

/-- A quote's body of 1,112 bytes. -/
def quoteBody (s : State) (nonce : List Byte) : List Byte :=
  leBytes 4 0x544F5551 ++ leBytes 2 1 ++ zeros 2 ++ leBytes 8 s.mgmt.fuses.serial.toNat ++ slice nonce 0 32
    ++ leBytes 8 s.power.sclk ++ leBytes 8 s.mgmt.capWord.toNat ++ leBytes 4 s.mgmt.release.toNat ++ leBytes 4 s.mgmt.fuses.security
    ++ leBytes 4 (quoteFlags s) ++ leBytes 4 Config.romVersion.toNat ++ ((List.range 10).flatMap (runningDigest s))
    ++ keyDigest s.mgmt.imageKey
    ++ (match s.fields.fullImage with
        | some m => digestBytes m.digest
        | none => zeros 32)
    ++ leBytes 2 (partialMarks s).length ++ zeros 6
    ++ slice ((partialMarks s).flatMap fun p => partialEntry p.1 p.2) 0 640

/-- Signature indices of the identity key (14 R388). -/
def identityIndices : Nat := 2 ^ 40

/-- The next identity signature's index: a block reserved when the last is used up, and its bottom tree built (14 R388, R389). -/
def takeIdentity (s : State) : Except Status (Nat × State) :=
  if s.mgmt.sigEnd ≤ s.mgmt.sigNext ∧ identityIndices ≤ s.mgmt.sigEnd then .error .stateExhausted
  else if s.mgmt.trees ≤ s.mgmt.sigNext / 2 ^ 20 then .error .busy
  else .ok (s.mgmt.sigNext, { s with mgmt := { s.mgmt with
    sigNext := s.mgmt.sigNext + 1, sigEnd := if s.mgmt.sigEnd ≤ s.mgmt.sigNext then s.mgmt.sigNext + 1024 else s.mgmt.sigEnd } })

end Sys2Proof.Machine
end

