-- ==== Sys2Proof/Machine/Mailbox.lean ====
section
/-! DEFINITION. The mailbox's transport, sessions and replies (14 R378 to R383; 10 R263). -/
namespace Sys2Proof.Machine

/-! ### Messages on the wire (14 R379, R382) -/

/-- A message's bytes: the header and the payload. -/
def messageBytes (minor type : Nat) (seq : BitVec 32) (payload : List Byte) : List Byte :=
  let head := leBytes 1 1 ++ leBytes 1 minor ++ leBytes 2 type ++ leBytes 4 seq.toNat ++ leBytes 4 payload.length
  head ++ leBytes 4 (crc crc32c (head ++ payload)) ++ payload

/-- A reply's bytes: TYPE with bit 15 set, the status, and the reply's fields when it is OK. -/
def replyBytes (minor type : Nat) (seq : BitVec 32) (st : Status) (bs : List Byte) : List Byte :=
  messageBytes minor (type + 0x8000) seq (leBytes 2 st.code ++ zeros 2 ++ if st = .ok then bs else [])

/-- The device's own minor version. -/
def ownMinor : Nat := Config.mailboxMinor.toNat

/-- An MCTP message around a mailbox message: vendor-defined, its IC bit clear, and Horxa's enterprise number, which stands in network
order (14 R378; log 11). -/
def mctpBytes (s : State) (bs : List Byte) : List Byte := [0x7F] ++ beBytes 4 s.mgmt.fuses.enterprise.toNat ++ bs

/-- A reply sent to its source: over UDP on H0 at the management priority, to the MAC address of the frame that caused it (10 R255),
or over MCTP. -/
def sendMail (s : State) (src : Src) (mac : BitVec 48) (bs : List Byte) : State :=
  match src with
  | .udp _ _ => if s.ports.h0State = .up then sendH0 s s.ports.net.mgmtPrio 1 (.reply src mac bs) else s
  | .mctp _ => { s with out := .reply src 0 (mctpBytes s bs) :: s.out }

/-- Whether a datagram is for the management processor: to an address and the port of the device (10 R263). -/
def forDevice (s : State) (via : Via) : Bool :=
  via.addr != 0 && (via.addr == s.ports.net.ipv6 || via.addr == s.ports.net.ipv4) && via.port == s.ports.net.udpPort

/-- A datagram or MCTP message received: the state, and whether the management processor takes it (10 R263; 14 R378, R384
SET_NET). -/
def receiveMail (s : State) (src : Src) (via : Via) : State × Bool :=
  match src with
  | .udp a _ =>
    if !h0Receives s then (s, false)
    else
      let s := bumpH0 s 1 1
      if !forDevice s via then (s, false)
      else if s.ports.net.sources.isEmpty || s.ports.net.sources.contains a then (s, true)
      else ({ s with mgmt := { s.mgmt with foreign := s.mgmt.foreign + 1 } }, false)
  | .mctp _ => (s, via.type == 0x7F && via.vendor == s.mgmt.fuses.enterprise)

/-! ### Sessions (14 R380, R381) -/

/-- The session of a source. -/
def sessionOf (s : State) (src : Src) : Option Session := s.mgmt.sessions.find? fun x => x.src == src

/-- The session of a source changed. -/
def withSession (s : State) (src : Src) (f : Session → Session) : State :=
  { s with mgmt := { s.mgmt with sessions := s.mgmt.sessions.map fun x => if x.src = src then f x else x } }

/-- A request completed: its reply is kept in its session, if that still stands, and sent. -/
def complete (s : State) (src : Src) (mac : BitVec 48) (minor type : Nat) (seq : BitVec 32) (st : Status) (bs : List Byte) : State :=
  let r := replyBytes minor type seq st bs
  sendMail (withSession s src fun x => { x with last := some (seq, r), executing := none }) src mac r

/-- A reply to a message that leaves its session as it was. -/
def refuseMail (s : State) (m : Mail) (minor type : Nat) (st : Status) : State :=
  sendMail s m.src m.via.mac (replyBytes minor type m.seq st [])

/-- A deferred request completed: only when its session still waits for it. -/
def completeLater (s : State) (src : Src) (mac : BitVec 48) (type : Nat) (seq : BitVec 32) (st : Status) (bs : List Byte) : State :=
  match sessionOf s src with
  | some x => if x.executing = some seq then complete s src mac x.minor type seq st bs else s
  | none => s

/-! ### Serving a request (14 R381, R382, R384, R386) -/

/-- What a request does. -/
inductive Acted where
  | answer (a : Answer)
  /-- The reply goes out first, and then this follows (14 R384 RESET, RESTART_PROC; R386). -/
  | answerThen (a : Answer) (after : State → State)
  /-- The reply is sent when the request ends. -/
  | later (s : State)
  /-- No reply. -/
  | silent (s : State)

/-- A request as it is served: its message, its TYPE, whether early service offers it, whether its payload is of the row's kind
(log 1), its required length, whether a reserved field of it is nonzero, what its refusal still does, the processors that act on
it (14 R376), and its effect. -/
structure Request where
  mail    : Mail
  type    : Nat
  early   : Bool := true
  mine    : Bool := true
  need    : Nat
  spare   : Bool := false
  refused : State → State := id
  needs   : State → List Nat := fun _ => []
  act     : State → Acted

/-- The TYPEs of the long operations, of which one runs at a time (14 R381). -/
def longTypes : List Nat := [0x0010, 0x0012, 0x0040, 0x0041, 0x0060, 0x0070, 0x0072]

/-- Whether a command is a long operation (14 R381): one that waits for a processor runs until then. -/
def isLong : Instr → Bool
  | .loadImage _ _ | .enrollImageKey _ | .getCert _ | .attest _ | .diagRunTileTest _ _ | .diagRunDestructive _ _ | .diagRunReadCheck _
  | .fwUpdate _ | .fwCommit _ => true
  | _ => false

/-- Whether a command is a load or a firmware update, during which SET_POWER_STATE is refused (14 R384). -/
def isLoad : Instr → Bool
  | .loadImage _ _ | .fwUpdate _ => true
  | _ => false

/-- The status of the checks before a request acts (14 R381, R382, R384; 00 R13). -/
def Request.check (r : Request) (s : State) : Status :=
  Status.lowest
    [ (longTypes.contains r.type && s.mgmt.parked.any isLong, .busy),
      (r.type == 0x0021 && s.mgmt.parked.any isLoad, .busy),
      (r.spare || (r.mail.payload.drop r.need).any (· != 0), .reserved),
      (!r.early && (s.mgmt.service == .early || s.mgmt.service == .earlyHeld), .busy),
      (r.mail.payload.length < r.need, .range) ]

/-- What a session does with a request before it is looked at (14 R381): none when the request is to be served. -/
def Session.repeated (x : Session) (s : State) (m : Mail) (type : Nat) : Option State :=
  match x.executing with
  | some q => some (if q = m.seq then s else refuseMail s m x.minor type .busy)
  | none =>
    match x.last with
    | some (q, r) => if q = m.seq then some (sendMail s m.src m.via.mac r) else none
    | none => none

/-- A request acted on in a session. -/
def actOn (s : State) (r : Request) (minor : Nat) : State :=
  let m := r.mail
  match r.act s with
  | .answer (s, st, bs) => complete s m.src m.via.mac minor r.type m.seq st bs
  | .answerThen (s, st, bs) after => after (complete s m.src m.via.mac minor r.type m.seq st bs)
  | .later s => withSession s m.src fun x => { x with executing := some m.seq }
  | .silent s => s

/-- The messages that recovery accepts (14 R386). -/
def recoveryTypes : List Nat := [0x0001, 0x0071, 0x0072]

/-- A checked request acted on, or kept until the processors that it needs run again (14 R376). -/
def perform (i : Instr) (s : State) (r : Request) (minor : Nat) : State :=
  if (r.needs s).all (processorRuns s) then actOn s r minor
  else
    let s := withSession s r.mail.src fun x => { x with executing := some r.mail.seq }
    { s with mgmt := { s.mgmt with parked := s.mgmt.parked ++ [i] } }

/-- A request other than OPEN served. -/
def serve (i : Instr) (s : State) (r : Request) : State :=
  let m := r.mail
  if s.mgmt.service = .recovery ∧ !recoveryTypes.contains r.type then refuseMail s m ownMinor r.type .busy
  else
    match sessionOf s m.src with
    | none => refuseMail s m ownMinor r.type .version
    | some x =>
      match x.repeated s m r.type with
      | some s => s
      | none =>
        if r.check s = .ok then perform i s r x.minor
        else complete (r.refused s) m.src m.via.mac x.minor r.type m.seq (r.check s) []

/-- Messages that wait for the management processor's restart to end (14 R376; log 21). -/
def awaitMgmt (s : State) (i : Instr) : State := { s with mgmt := { s.mgmt with waiting := s.mgmt.waiting ++ [i] } }

/-- A datagram that waits keeps its bytes in H0's receive buffer; one that finds the buffer full is dropped (10 R262). -/
def awaitDatagram (s : State) (i : Instr) (bytes : Nat) : State :=
  if bufferFull s s.ports.net.mgmtPrio bytes then bumpH0 s 8 1
  else noteBuffers (awaitMgmt { s with mgmt := { s.mgmt with waitBytes := s.mgmt.waitBytes + bytes } } i)

/-- Whether a source sends datagrams. -/
def isUdp : Src → Bool
  | .udp _ _ => true
  | .mctp _ => false

/-- A message of some bytes arrives: dropped, kept until the management processor runs again, or served by `act`. `mine` says that
the row occurs. In recovery only MCTP is served. -/
def arrive (i : Instr) (src : Src) (via : Via) (bytes : Nat) (mine : Bool) (act : State → State) (s : State) : State :=
  if !mine || s.mgmt.service = .off || (isUdp src && s.mgmt.service == .recovery) then s
  else
    match receiveMail s src via with
    | (s, false) => s
    | (s, true) => if processorRuns s 0 then act s else if isUdp src then awaitDatagram s i bytes else awaitMgmt s i

/-- A request arrives. A payload above 4,096 bytes is the row DROPPED_MESSAGE. -/
def Request.arrive (i : Instr) (r : Request) (s : State) : State :=
  Machine.arrive i r.mail.src r.mail.via (16 + r.mail.payload.length) (r.mine && decide (r.mail.payload.length ≤ 4096)) (serve i · r) s

/-! ### OPEN and CLOSE (14 R380) -/

/-- The service state that a successful OPEN reports; in recovery the spec gives none (log 3). -/
def openState (s : State) : Nat :=
  match s.mgmt.service with
  | .full => 1
  | .recovery => Config.freeBits 8 0 % 256
  | _ => 0

/-- OPEN's reply (14 R384). In recovery no release runs (log 3). -/
def openReply (s : State) (minor : Nat) : List Byte :=
  let release := if s.mgmt.service = .recovery then Config.freeBits 11 0 % 2 ^ 32 else s.mgmt.release.toNat
  leBytes 1 1 ++ leBytes 1 minor ++ zeros 2 ++ leBytes 4 release ++ leBytes 4 Config.romVersion.toNat
    ++ leBytes 8 s.mgmt.fuses.serial.toNat ++ leBytes 8 s.mgmt.capWord.toNat ++ leBytes 1 (openState s)

/-- OPEN's status: a reserved byte, the major version, a ninth session, a short payload (00 R13). -/
def openStatus (s : State) (m : Mail) : Status :=
  Status.lowest
    [ ((m.payload.drop 8).any (· != 0), .reserved), (m.major != 1, .version),
      ((sessionOf s m.src).isNone && decide (8 ≤ s.mgmt.sessions.length), .busy), (m.payload.length < 8, .range) ]

/-- A session opened, in place of its source's earlier one. -/
def openFresh (s : State) (m : Mail) : State :=
  let minor := min m.minor ownMinor
  let s := { s with mgmt := { s.mgmt with
    sessions := (s.mgmt.sessions.filter fun x => x.src != m.src) ++ [{ src := m.src, minor := minor }]
    service := if s.mgmt.service = .earlyHeld then .early else s.mgmt.service } }
  complete s m.src m.via.mac minor 0x0001 m.seq .ok (openReply s minor)

/-- OPEN served. A refusal leaves any session of its source as it was; one with E_VERSION in early service holds the package. -/
def serveOpen (m : Mail) (s : State) : State :=
  let x := sessionOf s m.src
  match x.bind fun x => x.repeated s m 0x0001 with
  | some s => s
  | none =>
    let st := openStatus s m
    if st = .ok then openFresh s m
    else
      let s := if st = .version ∧ s.mgmt.service = .early ∧ s.mgmt.passage = false then
          { s with mgmt := { s.mgmt with service := .earlyHeld } }
        else s
      refuseMail s m (if st = .version then ownMinor else (x.map Session.minor).getD ownMinor) 0x0001 st

/-- OPEN (14 R380). -/
def execOpenSession (mail : Mail) (s : State) : Host.Outcome State Fault Refusal :=
  .next (arrive (.openSession mail) mail.src mail.via (16 + mail.payload.length) (decide (mail.payload.length ≤ 4096)) (serveOpen mail) s)

/-- CLOSE (14 R380). -/
def closeRequest (m : Mail) : Request :=
  { mail := m, type := 0x0002, need := 0
    act := fun s => .answer ({ s with mgmt := { s.mgmt with sessions := s.mgmt.sessions.filter fun x => x.src != m.src } }, .ok, []) }

def execCloseSession (mail : Mail) (s : State) : Host.Outcome State Fault Refusal :=
  .next ((closeRequest mail).arrive (.closeSession mail) s)

end Sys2Proof.Machine
end

