-- ==== Sys2Proof/Machine/Repeat.lean ====
section
/-! DEFINITION. Repeat computation (15 R403 to R408), the response to a permanent fault (15 R409, R410), and proving items (15
R402). What a run in a check context writes is a command's operand, because only faulty arithmetic makes it differ from the
original (log 17). -/
namespace Sys2Proof.Machine

/-- The REPEAT codes (15 R407). -/
def RepeatOutcome.code : RepeatOutcome → Nat
  | .match_ => 1 | .transientOriginal => 2 | .transientCopy => 3 | .permanent => 4 | .unresolved => 5 | .notComparable => 6
  | .notCompared => 7

/-- The write digest of a run (15 R404). -/
def runDigest (ws : List WordWrite) : BitVec 64 :=
  ws.foldl (fun d w => d + digestTerm w.own w.addr (leBytes 16 w.data.toNat)) 0

/-- A run's writes to its own tile's scratchpad, and to the rest of memory when `elsewhere` says so (15 R405, R407). -/
def applyRun (s : State) (tile field : Nat) (elsewhere : Bool) (ws : List WordWrite) : State :=
  ws.foldl (fun s w =>
    let a := if w.own then padAddr tile (w.addr % 0x100000 / 16 * 16) else w.addr / 16 * 16
    if (w.own || elsewhere) && decide (a < windowBase) then
      (writeRun s (.step (tileQuarter tile) field) a (leBytes 16 w.data.toNat)).1
    else s) s

/-! ### Levels (15 R409) -/

def levelOf (s : State) (t : Nat) : Nat := SMap.get 0 s.tiles.level t

/-- A tile's level after a permanent outcome: level 1 passes to 2 at once when its field's DIV is ÷16. -/
def nextLevel (s : State) (t : Nat) : Nat :=
  let l := min 5 (levelOf s t + 1)
  let div := (fieldsOn s t).foldl (fun a f => max a (((fieldOf s f).map Field.div).getD 0)) 0
  if l = 1 ∧ div = 3 then 2 else l

/-- TILE_LEVEL_RAISE: the level, the die's offset, quarantine at level 5 (15 R409, R410). -/
def raiseLevel (s : State) (t cause : Nat) : State :=
  let l := nextLevel s t
  let q := tileQuarter t
  let s := { s with tiles := { s.tiles with level := SMap.set 0 s.tiles.level t l } }
  let x := quarterOf s q
  let s := if 2 ≤ l ∧ l ≤ 4 then setQuarter s q { x with offset := max x.offset (10 * (l - 1)) } else s
  if l = 5 then quarantineTile s t cause else s

/-! ### Deciding an outcome (15 R407, R408) -/

/-- The check contexts that run for a context's item are freed. -/
def freeChecks (s : State) (tile ctx : Nat) : State := dropChecks s fun _ r => r.tile == tile && r.ctx == ctx

/-- An outcome reached: counted, the runs ended, and a waiting ITEM_END goes on. With outcome 5 LAST_STATUS and ERR are set
first (15 R408). -/
def decideCheck (s : State) (tile ctx : Nat) (o : RepeatOutcome) : State :=
  let s := countOutcome (freeChecks s tile ctx) (tileQuarter tile) o
  let x := ctxOf s tile ctx
  match x.check with
  | some c =>
    let x := { x with check := some { c with outcome := some o } }
    let x := if o = .unresolved then { x with lastStatus := .uncorrectable, flags := setFlag x.flags flagErr true } else x
    let s := setCtx s tile ctx x
    if c.atEnd then
      match envAt s tile ctx .running with
      | some e => endStep tile ctx e.word (doItemEnd.itemEnd s e)
      | none => s
    else s
  | none => s

/-- The record of an outcome: class, status, the tile it names, the digests d1 to d4 (15 R398, R407). -/
def repeatFault (s : State) (cls : Nat) (st : Status) (tile ctx named : Nat) (o : RepeatOutcome) (detail : Nat) : State :=
  let x := ctxOf s tile ctx
  logFault s { tileFault s cls st tile ctx x.owner with
    tile := named, quarter := tileQuarter named, div := tileDiv s named, temp := sensor s (tileQuarter named), repeat_ := o.code
    voffset := (quarterOf s (tileQuarter named)).offset, detail := BitVec.ofNat 512 detail }

/-- REPEAT_COMPARE (15 R407): the copy has ended, and the original waits at its ITEM_END. -/
def execRepeatCompare (tile ctx : Nat) (copy : Option (List WordWrite)) (s : State) : Host.Outcome State Fault Refusal :=
  let x := ctxOf s tile ctx
  .next (match x.check, envAt s tile ctx .running with
    | some c, some e =>
      match c.copyTile, c.thirdTile, c.outcome, c.d2 with
      | some t, some u, none, none =>
        if !c.atEnd then s
        else
          match copy with
          | none => decideCheck s tile ctx .notComparable
          | some ws =>
            let s := applyRun s t e.field false ws
            let d := runDigest ws
            if d = x.digest then decideCheck s tile ctx .match_
            else
              let s := setCtx (freeChecks s tile ctx) tile ctx { ctxOf s tile ctx with check := some { c with d2 := some d } }
              [tile, u].foldl (fun s at_ =>
                if (SMap.get none s.tiles.checks at_).isNone then
                  { s with tiles := { s.tiles with checks := SMap.set none s.tiles.checks at_ (some ⟨tile, ctx⟩) } }
                else s) s
      | _, _, _, _ => s
    | _, _ => s)

/-- Whether a check context is free or runs for a context's item. -/
def checkFor (s : State) (at_ tile ctx : Nat) : Bool :=
  match SMap.get none s.tiles.checks at_ with
  | some r => r.tile == tile && r.ctx == ctx
  | none => true

/-- The outcome of four digests, in row order (15 R407). -/
def repeatOutcome (d1 d2 d3 d4 : BitVec 64) : RepeatOutcome :=
  if d4 = d1 ∧ d3 = d2 then .permanent
  else if d4 = d3 ∧ d3 = d2 then .transientOriginal
  else if d1 = d3 ∧ d3 = d4 then .transientCopy
  else .unresolved

/-- The records and the level that an outcome of four digests brings (15 R407, R409). -/
def reportOutcome (s : State) (tile ctx copyTile : Nat) (o : RepeatOutcome) (detail : Nat) : State :=
  match o with
  | .permanent =>
    raiseLevel (repeatFault s 0x06 .ok tile ctx tile o (detail + 2 ^ 256 * nextLevel s tile)) tile 1
  | .transientOriginal => repeatFault s 0x05 .ok tile ctx tile o detail
  | .transientCopy => repeatFault s 0x05 .ok tile ctx copyTile o detail
  | .unresolved => repeatFault s 0x08 .uncorrectable tile ctx tile o detail
  | _ => s

/-- REPEAT_RESOLVE (15 R407): the third tile's run and the original's rerun have ended. -/
def execRepeatResolve (tile ctx : Nat) (third rerun : Option (List WordWrite)) (s : State) : Host.Outcome State Fault Refusal :=
  let x := ctxOf s tile ctx
  .next (match x.check, envAt s tile ctx .running with
    | some c, some e =>
      match c.copyTile, c.thirdTile, c.outcome, c.d2 with
      | some t, some u, none, some d2 =>
        if !(checkFor s u tile ctx && checkFor s tile tile ctx) then s
        else
          match third, rerun with
          | some w3, some w4 =>
            let d3 := runDigest w3
            let d4 := runDigest w4
            let o := repeatOutcome x.digest d2 d3 d4
            let s := applyRun s u e.field true w3
            let detail := x.digest.toNat + 2 ^ 64 * d2.toNat + 2 ^ 128 * d3.toNat + 2 ^ 192 * d4.toNat
            decideCheck (reportOutcome s tile ctx t o detail) tile ctx o
          | _, _ => decideCheck s tile ctx .notComparable
      | _, _, _, _ => s
    | _, _ => s)

/-- REPEAT_TIMEOUT (15 R408): 20 ms after TAKE (log 8). -/
def execRepeatTimeout (tile ctx : Nat) (s : State) : Host.Outcome State Fault Refusal :=
  .next (match (ctxOf s tile ctx).check with
    | some c => if c.outcome.isNone ∧ c.started + 2000000 ≤ s.power.sclk + 99 then decideCheck s tile ctx .notCompared else s
    | none => s)

/-- REPEAT_SUMMARY (15 R407): the counts of outcomes 6 and 7 in the quarter's fault summary. The class of its records is not
stated, so it is free (log 3). -/
def execRepeatSummary (quarter : Nat) (s : State) : Host.Outcome State Fault Refusal :=
  let x := quarterOf s quarter
  let put := fun (s : State) (code n : Nat) =>
    if n = 0 then s
    else
      logFault { s with fresh := s.fresh + 1 }
        { mkFault s (Config.freeBits 25 s.fresh % 256) .ok quarter with repeat_ := code, detail := BitVec.ofNat 512 n }
  .next (if quarter < 4 then
      let s := put (put s 6 x.repeat6) 7 x.repeat7
      setQuarter s quarter { quarterOf s quarter with repeat6 := 0, repeat7 := 0 }
    else s)

/-! ### Proving items (15 R402) -/

/-- The record of a proving item that failed (15 R398 class 0x09). -/
def provingFault (s : State) (t version item : Nat) (want got : BitVec 64) : State :=
  logFault s { mkFault s 0x09 .ok (tileQuarter t) with
    tile := t, div := 3, temp := sensor s (tileQuarter t)
    detail := BitVec.ofNat 512 (version + 2 ^ 32 * (item % 65536) + 2 ^ 64 * want.toNat + 2 ^ 128 * got.toNat) }

/-- The step words of an item in a tile's check step area, from index 4,032 on (03 R68, R69). -/
def placeSteps (t : Nat) (ws : List (BitVec 128)) (area : SMap (BitVec 128)) : SMap (BitVec 128) :=
  (List.range ws.length).foldl (fun m k => SMap.set 0 m (64 * t + k) (ws.getD k 0)) area

/-- An item placed in a tile: its steps, its slots and its input, and what its steps write (15 R402). -/
def placeItem (s : State) (t : Nat) (i : PackItem) (ws : List WordWrite) : State :=
  let s := { s with tiles := { s.tiles with checkSteps := placeSteps t i.steps s.tiles.checkSteps } }
  let s := (writeRun s .outside (padAddr t 0) i.slots).1
  let s := (writeRun s .outside (padAddr t 0x20000) i.data).1
  applyRun s t 0xFF false ws

/-- Whether a tile can run proving items: no field on it, its quarter in service, not quarantined, its check context free. -/
def canProve (s : State) (t : Nat) : Bool :=
  decide (t < 2304) && (fieldsOn s t).isEmpty && tileRuns s t && !quarantined s t && (SMap.get none s.tiles.checks t).isNone

/-- PROVING_ITEM_RUN (15 R402): a mismatch is a permanent outcome for the tile. -/
def execProvingItemRun (tile item : Nat) (writes : List WordWrite) (s : State) : Host.Outcome State Fault Refusal :=
  .next (match s.mgmt.pack with
    | some p =>
      match p.items[item]? with
      | some i =>
        if canProve s tile then
          let ws := writes.filter (·.own)
          let s := placeItem s tile i ws
          let d := runDigest ws
          if d = i.digest then s else raiseLevel (provingFault s tile p.version item i.digest d) tile 2
        else s
      | none => s
    | none => s)

end Sys2Proof.Machine
end

