-- ==== Sys2Proof/Machine/Messages.lean ====
section
/-! DEFINITION. The mailbox messages but for OPEN, CLOSE, pattern packs and the weighbridge's (14 R383 to R392; 02 R61 to R66;
13 R354; 15 R393, R411, R413). A refused message answers 4 bytes, so what it would answer is left empty. -/
namespace Sys2Proof.Machine

/-- A stack address in bytes off to off + 7; whether its reserved bits are not zero (14 R384). -/
def stackAddr (p : List Byte) (off : Nat) : Nat := bits (field p off 8) 41 0
def addrSpare (p : List Byte) (off : Nat) : Bool := bits (field p off 8) 63 42 != 0

/-- A refusal that changes nothing but what a state already carries. -/
def refusal (s : State) (st : Status) : Acted := .answer (s, st, [])
/-- A reply of OK. -/
def okReply (s : State) (bs : List Byte) : Acted := .answer (s, .ok, bs)

/-! ### Results (14 R383) -/

/-- A result left in the session's buffer; the reply is its length. -/
def leaveResult (s : State) (m : Mail) (bs : List Byte) : Acted :=
  let bs := bs.take 16384
  okReply (withSession s m.src fun x => { x with result := bs, resultSeq := some m.seq }) (leBytes 4 bs.length)

/-- READ_RESULT (14 R383). -/
def doReadResult (m : Mail) (s : State) : Acted :=
  let p := m.payload
  let off := field p 4 4
  let n := field p 8 4
  match sessionOf s m.src with
  | some x =>
    if x.resultSeq = some (BitVec.ofNat 32 (field p 0 4)) ∧ off < x.result.length ∧ 1 ≤ n ∧ n ≤ 4088 then
      okReply s (leBytes 4 x.result.length ++ (x.result.drop off).take n)
    else refusal s .range
  | none => refusal s .range

def readResultRequest (m : Mail) : Request := { mail := m, type := 0x0003, need := 12, act := doReadResult m }
def execReadResult (mail : Mail) (s : State) : Host.Outcome State Fault Refusal :=
  .next ((readResultRequest mail).arrive (.readResult mail) s)

/-- The identity public key, of two levels of H20 over W4, followed by its certificate (14 R387). -/
def certified (s : State) : List Byte :=
  let f := s.mgmt.fuses
  hssKey 2 8 3 f.keyId (Config.identityRoot f.seed f.keyId) ++ Config.identityCertificate

/-- GET_CERT (14 R387). -/
def getCertRequest (m : Mail) : Request :=
  { mail := m, type := 0x0040, need := 0, act := fun s => leaveResult s m (certified s) }
def execGetCert (mail : Mail) (s : State) : Host.Outcome State Fault Refusal := .next ((getCertRequest mail).arrive (.getCert mail) s)

/-- ATTEST (14 R388, R389, R391). -/
def doAttest (m : Mail) (s : State) : Acted :=
  match takeIdentity s with
  | .error st => refusal s st
  | .ok (i, s') =>
    let body := quoteBody s (slice m.payload 0 32)
    leaveResult s' m (body ++ slice (Config.identitySign i body) 0 5716)

def attestRequest (m : Mail) : Request := { mail := m, type := 0x0041, need := 32, act := doAttest m }
def execAttest (mail : Mail) (s : State) : Host.Outcome State Fault Refusal := .next ((attestRequest mail).arrive (.attest mail) s)

/-! ### Images (02 R61 to R66) -/

/-- Whether a test instruction keeps loads that create a field waiting (17 R446). -/
def tapHolds (s : State) : Bool := s.tap.ir.any fun p => [0x03, 0x04, 0x05, 0x10, 0x20].contains p.2

/-- The status of order 1 (02 R61). Without stack memory, as when Q0 failed, every load is refused under 02 R58 (14 R371); while a
refused OPEN holds the package no field starts (14 R380), and the model refuses with E_BUSY: DESIGN CHOICE (log 25). -/
def loadOrder1 (s : State) (addr len : Nat) : Status :=
  if s.mem.live = [] then .capability
  else if s.mgmt.service = .earlyHeld then .busy
  else if addr % 256 ≠ 0 ∨ len < 256 ∨ 67108864 + 65536 < len ∨ stackTop s < addr + len then .range else .ok

/-- The status of order 3. A standing partial image is refused once every stage has passed: DESIGN CHOICE (log 25). -/
def loadOrder3 (s : State) (i : Img) (standing : Bool) : Status :=
  if i.validate s ≠ .ok then i.validate s
  else if standing && i.partial_ then .image
  else if tapHolds s && !i.removal then .busy
  else .ok

/-- The sections of an image in force whose load ended in order 6: its fields stay removed, and no digest of it is kept. -/
def leaveSections (s : State) (i : Img) : State :=
  let t := applySections s i
  spreadBudgets { t with fields := { t.fields with
    imageIds := s.fields.imageIds, fullImage := s.fields.fullImage, partials := s.fields.partials } }

/-- A load that the management processor's restart ends in order n (02 R65): from order 4 on the fields are left removed; one that
ends in order 5 leaves the package's sections as they were: DESIGN CHOICE (log 25). Its cause, watchdog or fatal error, is not
told (log 3). -/
def loadRestarts (s : State) (i : Img) (n : Nat) : State :=
  let s := if n < 4 then s else imageResets s i
  let s := if n < 6 then s else leaveSections s i
  let cause := 3 + Config.freeBits 9 s.fresh % 2
  imageFault (restartProcessor { s with fresh := s.fresh + 1 } 0 cause) i.id n .ok

/-- The controllers of the quarters in service, which budgets, images and power states are sent to (02 R61; 13 R354). -/
def controllers (s : State) : List Nat := (servingQuarters s).map (1 + ·)

/-- LOAD_IMAGE (02 R61); `restartAfter` is the order in which the management processor restarts, if it does. -/
def doLoadImage (m : Mail) (restartAfter : Option Nat) (s : State) : Acted :=
  let addr := stackAddr m.payload 0
  let len := field m.payload 8 4
  let standing := bit (field m.payload 12 1) 0
  let ends := restartAfter.getD 7
  if loadOrder1 s addr len ≠ .ok then refusal s (loadOrder1 s addr len)
  else if ends ≤ 1 then .silent (loadRestarts s ⟨[], 0, []⟩ ends)
  else
    match firmwareRead (shrinkLoft s) addr len with
    | (s, bs, .ok) =>
      let i := Img.parse bs
      let st := loadOrder3 s i standing
      if ends = 2 then .silent (loadRestarts s i 2)
      else if st ≠ .ok then refusal s st
      else if ends ≤ 6 then .silent (loadRestarts s i ends)
      else
        let s := applyImage s i
        let s := if standing then { s with mgmt := { s.mgmt with standWrite := some bs } } else s
        okReply s (leBytes 8 i.id.toNat ++ leBytes 1 (b2n s.mgmt.imageKey.isSome))
    | (s, _, st) => refusal s st

def loadImageRequest (m : Mail) (restartAfter : Option Nat) : Request :=
  { mail := m, type := 0x0010, need := 13, spare := addrSpare m.payload 0 || field m.payload 12 1 / 2 != 0
    needs := controllers, act := doLoadImage m restartAfter }
def execLoadImage (mail : Mail) (restartAfter : Option Nat) (s : State) : Host.Outcome State Fault Refusal :=
  .next ((loadImageRequest mail restartAfter).arrive (.loadImage mail restartAfter) s)

/-- CLEAR_STANDING (14 R384): a write still under way marks no slot (log 21). -/
def clearStandingRequest (m : Mail) : Request :=
  { mail := m, type := 0x0011, need := 0
    act := fun s => okReply { s with mgmt := { s.mgmt with standMark := none, standWrite := none } } [] }
def execClearStanding (mail : Mail) (s : State) : Host.Outcome State Fault Refusal :=
  .next ((clearStandingRequest mail).arrive (.clearStanding mail) s)

/-- An enrolment record's effect (14 R390). -/
def enroll (s : State) (bs : List Byte) : Acted :=
  let key := slice bs 12 60
  let new := if key.all (· == 0) then none else some key
  let s' := { s with mgmt := { s.mgmt with imageKey := new } }
  let st := Status.lowest
    [ (field bs 0 4 != 0x4B505552 || field bs 4 8 != s.mgmt.fuses.serial.toNat, .range),
      ((s.mgmt.imageKey.map fun old => !hssOk .image old (bs.take 72) (bs.drop 72)).getD false, .signature) ]
  if st = .ok then okReply s' (keyDigest new) else refusal s st

/-- ENROLL_IMAGE_KEY (14 R390). -/
def doEnrollImageKey (m : Mail) (s : State) : Acted :=
  let len := field m.payload 8 4
  if len < 72 then refusal s .range
  else
    match firmwareRead s (stackAddr m.payload 0) len with
    | (s, bs, .ok) => enroll s bs
    | (s, _, st) => refusal s st

def enrollImageKeyRequest (m : Mail) : Request :=
  { mail := m, type := 0x0012, need := 12, spare := addrSpare m.payload 0, act := doEnrollImageKey m }
def execEnrollImageKey (mail : Mail) (s : State) : Host.Outcome State Fault Refusal :=
  .next ((enrollImageKeyRequest mail).arrive (.enrollImageKey mail) s)

/-! ### Power (13 R352, R354; 15 R413) -/

/-- SET_CAP (13 R354). -/
def doSetCap (m : Mail) (s : State) : Acted :=
  let cap := field m.payload 0 2
  if cap < 1800 ∨ 5200 < cap then refusal s .range
  else okReply (spreadBudgets { s with power := { s.power with cap := cap } }) (leBytes 2 cap)

def setCapRequest (m : Mail) : Request := { mail := m, type := 0x0020, need := 2, needs := controllers, act := doSetCap m }
def execSetCap (mail : Mail) (s : State) : Host.Outcome State Fault Refusal := .next ((setCapRequest mail).arrive (.setCap mail) s)

/-- All scratchpads zeroed. -/
def zeroPads (s : State) : State :=
  { s with mem := { s.mem with
      bytes := { s.mem.bytes with cells := s.mem.bytes.cells.filter fun c => c.1 < scratchBase, zeroed := List.range 18432 }
      flips := s.mem.flips.filter fun p => 16 * p.1 < scratchBase } }

/-- A field started again after rest (15 R413): its barrier units zeroed, its contexts at their entry steps. -/
def restartField (s : State) (f : Nat) : State :=
  match fieldOf s f with
  | some fd => startContexts { s with sync := (fd.syncs.filter fun r => !r.signal).foldl (startSync f) s.sync } f fd
  | none => s

/-- Leaving rest (15 R413). The next pass of every array makes a stall load (05 R149). -/
def leaveRest (s : State) : State :=
  if s.power.state ≠ .rest then s
  else
    let s := zeroPads s
    let s := { s with tiles := { s.tiles with
      table := s.tiles.tableCopy, queues := [], putBack := [], halfMode := []
      regions := SMap.mapAll {} s.tiles.regions fun _ x => { x with stall := true, two := false, ramp := 0 } } }
    (loadedFields s).foldl restartField s

/-- A power state taken. -/
def takePower (s : State) (p : PowerState) : State := { s with power := { s.power with state := p } }

/-- Whether rest is accepted (15 R413): every owned context Halted, no collective command queued or running. -/
def restAllowed (s : State) : Bool :=
  (s.tiles.ctxs.all fun p => p.2.owner == 0xFF || p.2.state == .halted)
    && s.colls.all fun p => (p.2.map fun g => g.queue.isEmpty && g.run.isNone).getD true

/-- SET_POWER_STATE to run. A value above 2 is outside its range (log 1). -/
def setPowerStateRunRequest (m : Mail) : Request :=
  { mail := m, type := 0x0021, early := false, need := 1, needs := controllers, mine := field m.payload 0 1 == 0 || decide (2 < field m.payload 0 1)
    act := fun s => if field m.payload 0 1 = 0 then okReply (takePower (leaveRest s) .run) [] else refusal s .range }
def execSetPowerStateRun (mail : Mail) (s : State) : Host.Outcome State Fault Refusal :=
  .next ((setPowerStateRunRequest mail).arrive (.setPowerStateRun mail) s)

/-- SET_POWER_STATE to idle. -/
def setPowerStateIdleRequest (m : Mail) : Request :=
  { mail := m, type := 0x0021, early := false, need := 1, needs := controllers, mine := field m.payload 0 1 == 1
    act := fun s => okReply (takePower (leaveRest s) .idle) [] }
def execSetPowerStateIdle (mail : Mail) (s : State) : Host.Outcome State Fault Refusal :=
  .next ((setPowerStateIdleRequest mail).arrive (.setPowerStateIdle mail) s)

/-- SET_POWER_STATE to rest. -/
def setPowerStateRestRequest (m : Mail) : Request :=
  { mail := m, type := 0x0021, early := false, need := 1, needs := controllers, mine := field m.payload 0 1 == 2
    act := fun s => if restAllowed s then okReply (takePower s .rest) [] else refusal s .busy }
def execSetPowerStateRest (mail : Mail) (s : State) : Host.Outcome State Fault Refusal :=
  .next ((setPowerStateRestRequest mail).arrive (.setPowerStateRest mail) s)

/-! ### Resets (14 R384; 15 R411) -/

/-- RESET of a field; a scope above 2 is outside its range (log 1). -/
def doResetField (m : Mail) (s : State) : Acted :=
  let f := field m.payload 1 1
  if field m.payload 0 1 = 0 ∧ f < 16 ∧ (fieldOf s f).isSome then okReply (resetFields true s [f]) [] else refusal s .range

def resetFieldRequest (m : Mail) : Request :=
  { mail := m, type := 0x0022, need := 2, mine := field m.payload 0 1 == 0 || decide (2 < field m.payload 0 1), act := doResetField m }
def execResetField (mail : Mail) (s : State) : Host.Outcome State Fault Refusal :=
  .next ((resetFieldRequest mail).arrive (.resetField mail) s)

/-- RESET of a quarter: the reply is sent when the reset has completed (log 8). -/
def doResetQuarter (m : Mail) (s : State) : Acted :=
  let q := field m.payload 1 1
  if q < 4 ∧ (quarterOf s q).inService then
    let s := resetQuarter s q
    .later { s with mgmt := { s.mgmt with resetReply := SMap.modify [] s.mgmt.resetReply q (· ++ [(m.src, m.via.mac, m.seq)]) } }
  else refusal s .range

def resetQuarterRequest (m : Mail) : Request :=
  { mail := m, type := 0x0022, need := 2, mine := field m.payload 0 1 == 1, act := doResetQuarter m }
def execResetQuarter (mail : Mail) (s : State) : Host.Outcome State Fault Refusal :=
  .next ((resetQuarterRequest mail).arrive (.resetQuarter mail) s)

/-- RESET of the package: the reply goes out first. -/
def resetPackageWarmRequest (m : Mail) : Request :=
  { mail := m, type := 0x0022, need := 2, mine := field m.payload 0 1 == 2, spare := field m.payload 1 1 != 0
    act := fun s => .answerThen (s, .ok, []) fun s => callWarm s .message }
def execResetPackageWarm (mail : Mail) (s : State) : Host.Outcome State Fault Refusal :=
  .next ((resetPackageWarmRequest mail).arrive (.resetPackageWarm mail) s)

/-- RESTART_PROC (14 R376, R384). -/
def doRestartProc (m : Mail) (s : State) : Acted :=
  let p := field m.payload 0 1
  if 8 < p then refusal s .range else .answerThen (s, .ok, []) fun s => restartProcessor s p 5

def restartProcRequest (m : Mail) : Request := { mail := m, type := 0x0023, need := 1, act := doRestartProc m }
def execRestartProc (mail : Mail) (s : State) : Host.Outcome State Fault Refusal :=
  .next ((restartProcRequest mail).arrive (.restartProc mail) s)

/-! ### Records -/

/-- READ_FAULTS (15 R393). -/
def readFaultsRequest (m : Mail) : Request :=
  { mail := m, type := 0x0030, need := 8
    act := fun s => okReply s ((readFaults s (field m.payload 0 8)).flatMap (Fault16.bytes s.mgmt.fuses.serial)) }
def execReadFaults (mail : Mail) (s : State) : Host.Outcome State Fault Refusal :=
  .next ((readFaultsRequest mail).arrive (.readFaults mail) s)

/-- READ_RETIREMENTS (14 R384; 09 R245). -/
def readRetirementsRequest (m : Mail) : Request :=
  { mail := m, type := 0x0031, need := 2
    act := fun s =>
      let l := (s.mem.retired.drop (field m.payload 0 2)).take 511
      okReply s (leBytes 2 l.length ++ leBytes 2 s.mem.retired.length ++ l.flatMap fun e => leBytes 8 e.toNat) }
def execReadRetirements (mail : Mail) (s : State) : Host.Outcome State Fault Refusal :=
  .next ((readRetirementsRequest mail).arrive (.readRetirements mail) s)

/-! ### Network (10 R261; 14 R384) -/

/-- The IPv6 address whose 16 bytes stand at an offset, as the number that they spell in network order (log 23). -/
def netAddr (p : List Byte) (off : Nat) : BitVec 128 := BitVec.ofNat 128 (leNat (slice p off 16).reverse)

/-- QP_CREATE. -/
def doQpCreate (m : Mail) (s : State) : Acted :=
  let p := m.payload
  let i := field p 0 2
  let mtu := field p 2 1
  let st := Status.lowest [(255 < i || mtu < 1 || 3 < mtu, .range), (i < 256 && (qpOf s i).isSome, .busy)]
  if st ≠ .ok then refusal s st
  else
    okReply (setQp s i { state := .rtr, mtu := mtu, rkey := BitVec.ofNat 32 (field p 4 4), remoteQpn := field p 8 3
                         psn := field p 12 3, addr := netAddr p 16 }) []

def qpCreateRequest (m : Mail) : Request :=
  { mail := m, type := 0x0050, need := 32, spare := field m.payload 3 1 != 0 || field m.payload 11 1 != 0 || field m.payload 15 1 != 0
    needs := fun _ => [5], act := doQpCreate m }
def execQpCreate (mail : Mail) (s : State) : Host.Outcome State Fault Refusal := .next ((qpCreateRequest mail).arrive (.qpCreate mail) s)

/-- QP_MODIFY. -/
def doQpModify (m : Mail) (s : State) : Acted :=
  let i := field m.payload 0 2
  let state := field m.payload 2 1
  match if i < 256 then qpOf s i else none with
  | some q =>
    if state = 3 ∧ q.state = .rtr then okReply (setQp s i { q with state := .rts }) []
    else if state = 4 ∧ q.ready then okReply (setQp s i { q with state := .error }) []
    else refusal s .range
  | none => refusal s .range

def qpModifyRequest (m : Mail) : Request := { mail := m, type := 0x0051, need := 3, needs := fun _ => [5], act := doQpModify m }
def execQpModify (mail : Mail) (s : State) : Host.Outcome State Fault Refusal := .next ((qpModifyRequest mail).arrive (.qpModify mail) s)

/-- QP_DESTROY. -/
def doQpDestroy (m : Mail) (s : State) : Acted :=
  let i := field m.payload 0 2
  if i < 256 ∧ (qpOf s i).isSome then
    okReply { s with ports := { s.ports with qps := SMap.set none s.ports.qps i none } } []
  else refusal s .range

def qpDestroyRequest (m : Mail) : Request := { mail := m, type := 0x0052, need := 2, needs := fun _ => [5], act := doQpDestroy m }
def execQpDestroy (mail : Mail) (s : State) : Host.Outcome State Fault Refusal :=
  .next ((qpDestroyRequest mail).arrive (.qpDestroy mail) s)

/-- The configuration that SET_NET carries; a port of 0 keeps the stored one. -/
def netOf (s : State) (p : List Byte) : Net :=
  let port := field p 38 2
  { ipv6 := netAddr p 0, ipv4 := netAddr p 16, vlan := field p 32 2, rocePrio := field p 34 1
    mgmtPrio := field p 35 1, pfc := bit (field p 36 1) 0
    udpPort := if port = 0 then (s.mgmt.netRecord.map Net.udpPort).getD 0 else port
    sources := (List.range (field p 40 1)).map fun k => netAddr p (48 + 16 * k) }

/-- SET_NET: stored and applied. -/
def doSetNet (m : Mail) (s : State) : Acted :=
  let p := m.payload
  if 7 < field p 34 1 ∨ 7 < field p 35 1 ∨ 8 < field p 40 1 then refusal s .range
  else okReply (releaseHeld (bootNet { s with mgmt := { s.mgmt with netRecord := some (netOf s p) } })) []

/-- The bytes that SET_NET's number of sources makes it hold (14 R382). -/
def setNetNeed (p : List Byte) : Nat :=
  let n := field p 40 1
  if n = 0 then 41 else 48 + 16 * n

def setNetRequest (m : Mail) : Request :=
  { mail := m, type := 0x0053, need := setNetNeed m.payload
    spare := bits (field m.payload 32 2) 14 12 != 0 || field m.payload 36 1 / 2 != 0 || field m.payload 37 1 != 0
      || field m.payload 41 7 != 0
    needs := fun _ => [5], act := doSetNet m }
def execSetNet (mail : Mail) (s : State) : Host.Outcome State Fault Refusal := .next ((setNetRequest mail).arrive (.setNet mail) s)

/-! ### Diagnosis (14 R384; 15 R402, R411) -/

/-- The tiles of a quarter that a test can run on. -/
def testable (s : State) (q : Nat) : List Nat := (rangeFrom (576 * q) 576).filter fun t => !quarantined s t

/-- DIAG_RUN kind 0, and kinds above 2, which are outside their range (log 1): each tile tested is reset, and what its scratchpad
holds is lost (log 17). -/
def doDiagTileTest (m : Mail) (failures : List TileFailure) (s : State) : Acted :=
  let q := field m.payload 1 1
  let occupied := (loadedFields s).any fun f => ((fieldOf s f).map fun fd => fd.quarters.contains q).getD false
  let st := Status.lowest [(field m.payload 0 1 != 0 || 3 < q || !(quarterOf s q).inService, .range), (occupied, .busy)]
  if st ≠ .ok then refusal s st
  else
    let ts := testable s q
    let bad := ((failures.map TileFailure.tile).filter ts.contains).eraseDups
    let s := loseTiles (ts.foldl resetArray s) (576 * q) (576 * q + 576)
    okReply (bad.foldl (fun s t => quarantineTile s t 3) s) (leBytes 4 bad.length)

/-- Reserved bytes of DIAG_RUN. -/
def diagSpare (p : List Byte) : Bool := field p 2 6 != 0 || addrSpare p 8

def diagRunTileTestRequest (m : Mail) (failures : List TileFailure) : Request :=
  { mail := m, type := 0x0060, need := 24, mine := field m.payload 0 1 == 0 || decide (2 < field m.payload 0 1)
    spare := diagSpare m.payload, needs := fun s => (controllers s).filter (· == 1 + field m.payload 1 1), act := doDiagTileTest m failures }
def execDiagRunTileTest (mail : Mail) (failures : List TileFailure) (s : State) : Host.Outcome State Fault Refusal :=
  .next ((diagRunTileTestRequest mail failures).arrive (.diagRunTileTest mail failures) s)

/-- The record of an address that a memory test finds bad (15 R397, R398). -/
def memoryFault (s : State) (a : Nat) : State := badWordFault s (mkFault s 0x02 .uncorrectable (homeOf s a)) (a / 16)

/-- Stack memory from a to b − 1 with its contents lost: bytes, flips and lines in lofts. -/
def loseStack (s : State) (a b : Nat) : State :=
  { s with mem := { s.mem with
      bytes := { s.mem.bytes.drop a b with era := s.mem.bytes.era + 1 }
      flips := s.mem.flips.filter fun p => 16 * p.1 < a / 16 * 16 || b ≤ 16 * p.1
      lofts := SMap.mapAll {} s.mem.lofts fun _ l => { l with lines := l.lines.filter fun x => 256 * x.1 + 256 ≤ a || b ≤ 256 * x.1 } } }

/-- DIAG_RUN kind 1: `failures` are the addresses that fail. -/
def doDiagDestructive (m : Mail) (failures : List Nat) (s : State) : Acted :=
  let a := stackAddr m.payload 8
  let n := field m.payload 16 8
  let held := (loadedFields s).any fun f => ((fieldOf s f).map fun fd => fd.base < a + n && a < fd.base + fd.size).getD false
  let st := Status.lowest [(stackTop s < a + n, .range), (runBusy s a n || held, .busy)]
  if st ≠ .ok then refusal s st
  else
    let bad := (failures.filter fun x => a ≤ x && x < a + n).eraseDups
    okReply (bad.foldl memoryFault (loseStack s a (a + n))) (leBytes 4 bad.length)

def diagRunDestructiveRequest (m : Mail) (failures : List Nat) : Request :=
  { mail := m, type := 0x0060, need := 24, mine := field m.payload 0 1 == 1, spare := diagSpare m.payload, act := doDiagDestructive m failures }
def execDiagRunDestructive (mail : Mail) (failures : List Nat) (s : State) : Host.Outcome State Fault Refusal :=
  .next ((diagRunDestructiveRequest mail failures).arrive (.diagRunDestructive mail failures) s)

/-- DIAG_RUN kind 2: the range is read, and each uncorrectable word is a failure. -/
def doDiagReadCheck (m : Mail) (s : State) : Acted :=
  let a := stackAddr m.payload 8
  let n := field m.payload 16 8
  let st := Status.lowest [(stackTop s < a + n, .range), (runBusy s a n, .busy)]
  if st ≠ .ok then refusal s st
  else
    let bad := (flippedWords s a n).filter fun w => (readWord s w).bad
    let s := (readRun s none false false a n).1
    okReply (bad.foldl (fun s w => memoryFault s (16 * w)) s) (leBytes 4 bad.length)

def diagRunReadCheckRequest (m : Mail) : Request :=
  { mail := m, type := 0x0060, need := 24, mine := field m.payload 0 1 == 2, spare := diagSpare m.payload, act := doDiagReadCheck m }
def execDiagRunReadCheck (mail : Mail) (s : State) : Host.Outcome State Fault Refusal :=
  .next ((diagRunReadCheckRequest mail).arrive (.diagRunReadCheck mail) s)

/-! ### Firmware (14 R385) -/

/-- What a slot's bytes hold (log 10): the firmware public key, the signature, and the bundle that the signature covers. -/
def bundleKey (bs : List Byte) : List Byte := bs.take 60
def bundleSignature (bs : List Byte) : List Byte := (bs.drop 60).take (hssLength (bundleKey bs) (bs.drop 60))
def bundleBody (bs : List Byte) : List Byte := (bs.drop 60).drop (hssLength (bundleKey bs) (bs.drop 60))

/-- Whether a bundle's key has the digest in the fuses and its signature verifies under that key, over the SHA-256 of the bundle (14
R372). -/
def bundleAuthentic (s : State) (bs : List Byte) : Bool :=
  sha256 (bundleKey bs) == s.mgmt.fuses.rootKey && hssOk .bundle (bundleKey bs) (shaBytes (bundleBody bs)) (bundleSignature bs)

/-- A bundle as its bytes make it (log 10). -/
def flashBundle (s : State) (bs : List Byte) : Bundle :=
  { bytes := bs, authentic := bundleAuthentic s bs, release := Config.bundleRelease bs, security := Config.bundleSecurity bs }

/-- The inactive slot. -/
def inactiveSlot (s : State) : Nat := 1 - s.mgmt.active
def setSlot (s : State) (b : Bundle) : State :=
  { s with mgmt := { s.mgmt with slots := SMap.set none s.mgmt.slots (inactiveSlot s) (some b) } }

/-- The bytes of a bundle slot. -/
def bundleSlotSize : Nat := 0x1000000

/-- FW_UPDATE. -/
def doFwUpdate (m : Mail) (s : State) : Acted :=
  let len := field m.payload 8 4
  if bundleSlotSize < len then refusal s .range
  else
    match firmwareRead s (stackAddr m.payload 0) len with
    | (s, bs, .ok) =>
      let b := flashBundle s bs
      if b.accepted s then
        let s := setSlot s b
        okReply { s with mgmt := { s.mgmt with pendingFw := some (inactiveSlot s) } } (leBytes 4 b.release.toNat)
      else refusal s .signature
    | (s, _, st) => refusal s st

def fwUpdateRequest (m : Mail) : Request :=
  { mail := m, type := 0x0070, need := 12, spare := addrSpare m.payload 0, act := doFwUpdate m }
def execFwUpdate (mail : Mail) (s : State) : Host.Outcome State Fault Refusal := .next ((fwUpdateRequest mail).arrive (.fwUpdate mail) s)

/-- Data placed in a slot's bytes; bytes that nothing has written are erased flash (log 9). -/
def placeBytes (old : List Byte) (off : Nat) (data : List Byte) : List Byte :=
  (old ++ List.replicate (off - old.length) 0xFF).take off ++ data ++ old.drop (off + data.length)

/-- FW_WRITE. -/
def doFwWrite (m : Mail) (s : State) : Acted :=
  let off := field m.payload 0 4
  let data := (m.payload.drop 4).take 4000
  if off % 16 ≠ 0 ∨ bundleSlotSize < off + data.length then refusal s .range
  else
    let old := ((SMap.get none s.mgmt.slots (inactiveSlot s)).map Bundle.bytes).getD []
    okReply (setSlot s (flashBundle s (placeBytes old off data))) []

def fwWriteRequest (m : Mail) : Request :=
  { mail := m, type := 0x0071, need := max 4 (min 4004 m.payload.length), act := doFwWrite m }
def execFwWrite (mail : Mail) (s : State) : Host.Outcome State Fault Refusal := .next ((fwWriteRequest mail).arrive (.fwWrite mail) s)

/-- FW_COMMIT; in recovery the boot starts again after it (14 R386). -/
def doFwCommit (s : State) : Acted :=
  match (SMap.get none s.mgmt.slots (inactiveSlot s)).filter (Bundle.accepted s) with
  | some b =>
    let s' := { s with mgmt := { s.mgmt with pendingFw := some (inactiveSlot s) } }
    if s.mgmt.service = .recovery then .answerThen (s', .ok, leBytes 4 b.release.toNat) fun s => callWarm s .recovery
    else okReply s' (leBytes 4 b.release.toNat)
  | none => refusal s .signature

def fwCommitRequest (m : Mail) : Request := { mail := m, type := 0x0072, need := 0, act := doFwCommit }
def execFwCommit (mail : Mail) (s : State) : Host.Outcome State Fault Refusal := .next ((fwCommitRequest mail).arrive (.fwCommit mail) s)

/-- FW_ACCEPT: the fused security version never falls. -/
def doFwAccept (s : State) : Acted :=
  let v := max s.mgmt.fuses.security ((s.mgmt.bundle.map Bundle.security).getD 0)
  okReply { s with mgmt := { s.mgmt with fuses := { s.mgmt.fuses with security := v } } } (leBytes 4 v)

def fwAcceptRequest (m : Mail) : Request := { mail := m, type := 0x0073, early := false, need := 0, act := doFwAccept }
def execFwAccept (mail : Mail) (s : State) : Host.Outcome State Fault Refusal := .next ((fwAcceptRequest mail).arrive (.fwAccept mail) s)

/-! ### Test access (14 R392) -/

/-- TEST_CHALLENGE: a fresh nonce (log 3). -/
def doTestChallenge (s : State) : Acted :=
  let n := BitVec.ofNat 256 (Config.freeBits 10 s.fresh)
  okReply { s with mgmt := { s.mgmt with challenge := some n }, fresh := s.fresh + 1 }
    (digestBytes n ++ leBytes 8 s.mgmt.fuses.serial.toNat)

def testChallengeRequest (m : Mail) : Request := { mail := m, type := 0x0080, need := 0, act := doTestChallenge }
def execTestChallenge (mail : Mail) (s : State) : Host.Outcome State Fault Refusal :=
  .next ((testChallengeRequest mail).arrive (.testChallenge mail) s)

/-- The challenge consumed. -/
def dropChallenge (s : State) : State := { s with mgmt := { s.mgmt with challenge := none } }

/-- What a test token signs: magic, serial number, nonce, scope. -/
def testMessage (s : State) (nonce : BitVec 256) (scope : Nat) : List Byte :=
  leBytes 4 0x55545154 ++ leBytes 8 s.mgmt.fuses.serial.toNat ++ digestBytes nonce ++ leBytes 4 scope

/-- TEST_UNLOCK. -/
def doTestUnlock (m : Mail) (s : State) : Acted :=
  let scope := field m.payload 0 4
  match s.mgmt.challenge with
  | some n =>
    if hssOk .test (horxaKey s testKey) (testMessage s n scope) (slice m.payload 4 1616) then
      let all := s.mgmt.scopes ||| scope
      let s := dropChallenge { s with mgmt := { s.mgmt with scopes := all } }
      okReply (logFault s { mkFault s 0x12 .ok 0 with detail := BitVec.ofNat 512 (2 + 256 * scope) }) (leBytes 4 all)
    else refusal (dropChallenge s) .signature
  | none => refusal s .signature

def testUnlockRequest (m : Mail) : Request :=
  { mail := m, type := 0x0081, need := 1620, spare := field m.payload 0 4 / 16 != 0, refused := dropChallenge, act := doTestUnlock m }
def execTestUnlock (mail : Mail) (s : State) : Host.Outcome State Fault Refusal :=
  .next ((testUnlockRequest mail).arrive (.testUnlock mail) s)

end Sys2Proof.Machine
end

