-- ==== Sys2Proof/Machine/Packs.lean ====
section
/-! DEFINITION. Pattern packs: their layout and checks (15 R400, R401) and the messages that install, run and remove one. -/
namespace Sys2Proof.Machine

/-! ### Layout (15 R401) -/

def packLength (bs : List Byte) : Nat := field bs 8 4
def packVersion (bs : List Byte) : Nat := field bs 12 4
def packTarget (bs : List Byte) : Nat := field bs 16 8
def packSigLength (bs : List Byte) : Nat := field bs 24 4
def packCount (bs : List Byte) : Nat := field bs 6 2

/-- An item's offset and head. -/
structure ItemHead where
  off  : Nat
  head : Nat
  deriving DecidableEq, Repr

def ItemHead.length (h : ItemHead) : Nat := bits h.head 31 0
def ItemHead.steps (h : ItemHead) : Nat := bits h.head 39 32
def ItemHead.slots (h : ItemHead) : Nat := bits h.head 47 40
def ItemHead.kind (h : ItemHead) : Nat := bits h.head 49 48
def ItemHead.shapes (h : ItemHead) : Nat := bits h.head 57 50
def ItemHead.digest (h : ItemHead) : Nat := bits h.head 127 64
def ItemHead.dataLength (h : ItemHead) : Nat := bits h.head 159 128

/-- The heads of n items, and where they end. -/
def itemHeads (bs : List Byte) : Nat → Nat → List ItemHead × Nat
  | 0, off => ([], off)
  | n + 1, off =>
    let h : ItemHead := ⟨off, field bs off 64⟩
    let (rest, fin) := itemHeads bs n (off + h.length)
    (h :: rest, fin)

/-- The conditions on an item's head. -/
def ItemHead.conds (h : ItemHead) : List (Bool × Status) :=
  [ (bits h.head 511 160 != 0 || bits h.head 63 58 != 0 || decide (1 < h.kind), .reserved),
    (h.length % 16 != 0 || h.length != 64 + 16 * h.steps + 64 * h.shapes + 32 * h.slots + h.dataLength, .image),
    (h.steps < 1 || 64 < h.steps || h.slots < 1 || 64 < h.slots || 64 < h.shapes || h.dataLength % 16 != 0 || 786432 < h.dataLength, .image) ]

/-- Order 1 of the checks: the layouts. -/
def packLayout (bs : List Byte) : Status :=
  let x := field bs 0 64
  let head := Status.lowest
    [ (bits x 511 224 != 0 || bits x 47 40 != 0 || !capClean (packTarget bs), .reserved),
      (bits x 31 0 != 0x50505154 || bits x 39 32 != 1 || packCount bs < 1 || 4096 < packCount bs || 0x100000 < packLength bs
        || bs.length != packLength bs + packSigLength bs, .image) ]
  if head ≠ .ok then head
  else
    let (hs, fin) := itemHeads bs (packCount bs) 64
    Status.lowest ((fin != packLength bs, .image) :: hs.flatMap ItemHead.conds)

/-- Order 3: CAP_TARGET under the first three conditions of 02 R58. -/
def packCapability (s : State) (bs : List Byte) : Bool :=
  let c := s.mgmt.capWord.toNat
  let t := packTarget bs
  ((rangeFrom 24 15 ++ rangeFrom 16 4).all fun k => !bit t k || bit c k) && decide (capChannels t ≤ capChannels c)
    && decide (capMinDiv c ≤ capMinDiv t)

/-- The checks of a pack (15 R400). -/
def packStatus (s : State) (bs : List Byte) : Status :=
  if packLayout bs ≠ .ok then packLayout bs
  else if !hssOk .pack (horxaKey s patternKey) (bs.take (packLength bs)) (bs.drop (packLength bs)) then .signature
  else if !packCapability s bs then .capability
  else if (s.mgmt.pack.map fun p => decide (packVersion bs < p.version)).getD false then .range
  else .ok

/-- What a pack's item places and expects. -/
def ItemHead.item (bs : List Byte) (h : ItemHead) : PackItem :=
  let at_ := h.off + 64 + 16 * h.steps + 64 * h.shapes
  { digest := BitVec.ofNat 64 h.digest, kind := h.kind
    steps := (List.range h.steps).map fun k => BitVec.ofNat 128 (field bs (h.off + 64 + 16 * k) 16), slots := slice bs at_ (32 * h.slots)
    data := slice bs (at_ + 32 * h.slots) h.dataLength }

def packOf (bs : List Byte) : Pack := ⟨packVersion bs, (itemHeads bs (packCount bs) 64).1.map (ItemHead.item bs)⟩

/-! ### Messages (15 R400) -/

/-- PATTERN_PACK action 0, and actions above 2, which are outside their range (log 1). -/
def doPackInstall (m : Mail) (s : State) : Acted :=
  let len := field m.payload 8 4
  if field m.payload 12 1 ≠ 0 ∨ len < 64 ∨ 0x100000 + 65536 < len then refusal s .range
  else
    match firmwareRead s (stackAddr m.payload 0) len with
    | (s, bs, .ok) =>
      if packStatus s bs ≠ .ok then refusal s (packStatus s bs)
      else okReply { s with mgmt := { s.mgmt with pack := some (packOf bs) } } (leBytes 4 (packOf bs).items.length)
    | (s, _, st) => refusal s st

def patternPackInstallRequest (m : Mail) : Request :=
  { mail := m, type := 0x0061, early := false, need := 14, mine := field m.payload 12 1 == 0 || decide (2 < field m.payload 12 1)
    spare := addrSpare m.payload 0, act := doPackInstall m }
def execPatternPackInstall (mail : Mail) (s : State) : Host.Outcome State Fault Refusal :=
  .next ((patternPackInstallRequest mail).arrive (.patternPackInstall mail) s)

/-- Whether a main field has a plot on a quarter. -/
def mainOn (s : State) (q : Nat) : Bool :=
  (loadedFields s).any fun f => ((fieldOf s f).map fun fd => !fd.crop && fd.quarters.contains q).getD false

/-- Whether a failure is one that a run of the pack on a quarter can find. -/
def realFailure (s : State) (p : Pack) (q : Nat) (x : TileFailure) : Bool :=
  canProve s x.tile && tileQuarter x.tile == q && (p.items[x.item]?.map fun i => i.digest != x.digest).getD false

/-- A failure found: its record and a permanent outcome for the tile (15 R402). -/
def packFailure (p : Pack) (s : State) (x : TileFailure) : State :=
  raiseLevel (provingFault s x.tile p.version x.item (((p.items[x.item]?).map PackItem.digest).getD 0) x.digest) x.tile 2

/-- PATTERN_PACK action 1: `failures` are what the runs find. What the quarter's scratchpads hold is lost (log 17). -/
def doPackRunNow (m : Mail) (failures : List TileFailure) (s : State) : Acted :=
  let q := field m.payload 13 1
  let st := Status.lowest [(3 < q || !(quarterOf s q).inService, .range), (mainOn s q, .busy)]
  if st ≠ .ok then refusal s st
  else
    match s.mgmt.pack with
    | some p =>
      let bad := (failures.filter (realFailure s p q)).eraseDups
      okReply (bad.foldl (packFailure p) (loseTiles s (576 * q) (576 * q + 576))) (leBytes 4 p.items.length ++ leBytes 4 bad.length)
    | none => okReply s (leBytes 4 0 ++ leBytes 4 0)

def patternPackRunNowRequest (m : Mail) (failures : List TileFailure) : Request :=
  { mail := m, type := 0x0061, early := false, need := 14, mine := field m.payload 12 1 == 1, spare := addrSpare m.payload 0
    needs := fun s => (controllers s).filter (· == 1 + field m.payload 13 1), act := doPackRunNow m failures }
def execPatternPackRunNow (mail : Mail) (failures : List TileFailure) (s : State) : Host.Outcome State Fault Refusal :=
  .next ((patternPackRunNowRequest mail failures).arrive (.patternPackRunNow mail failures) s)

/-- PATTERN_PACK action 2. -/
def patternPackRemoveRequest (m : Mail) : Request :=
  { mail := m, type := 0x0061, early := false, need := 14, mine := field m.payload 12 1 == 2, spare := field m.payload 0 12 != 0
    act := fun s => okReply { s with mgmt := { s.mgmt with pack := none } } [] }
def execPatternPackRemove (mail : Mail) (s : State) : Host.Outcome State Fault Refusal :=
  .next ((patternPackRemoveRequest mail).arrive (.patternPackRemove mail) s)

end Sys2Proof.Machine
end

