-- ==== Sys2Proof/Machine/Serving.lean ====
section
/-! DEFINITION. The weighbridge's messages (16 R428 to R432), MCTP control (14 R378), messages dropped (14 R379, R384), and what is
served when a processor runs again (14 R376) or a quarter's loop does (13 R357; 15 R411). -/
namespace Sys2Proof.Machine

/-! ### The weighbridge's messages (16 R428 to R432) -/

/-- A message passed on to the weighbridge: answered at once, or kept until its processor runs again (16 R432). -/
def toWeighbridge (i : Instr) (f : State → Answer) (s : State) : Acted :=
  if s.wb.restarting then .later { s with wb := { s.wb with waiting := s.wb.waiting ++ [i] } } else .answer (f s)

/-- A WB_READOUT of a kind. -/
def readoutRequest (i : Instr) (m : Mail) (mine : Bool) (f : State → Answer) : Request :=
  { mail := m, type := 0x0090, need := 16, mine := mine, spare := field m.payload 1 7 != 0, act := toWeighbridge i f }

/-- The kind and argument of a WB_READOUT. -/
def readoutKind (m : Mail) : Nat := field m.payload 0 1
def readoutArg (m : Mail) : Nat := field m.payload 8 8

/-- WB_READOUT kind 0; kinds above 4 are outside their range (log 1). -/
def doReadoutRecord (m : Mail) (s : State) : Answer := if readoutKind m = 0 then wbRecord s (readoutArg m) else (s, .range, [])
def wbReadoutRecordRequest (m : Mail) : Request :=
  readoutRequest (.wbReadoutRecord m) m (readoutKind m == 0 || decide (4 < readoutKind m)) (doReadoutRecord m)
def execWbReadoutRecord (mail : Mail) (s : State) : Host.Outcome State Fault Refusal :=
  .next ((wbReadoutRecordRequest mail).arrive (.wbReadoutRecord mail) s)

/-- WB_READOUT kind 1, with argument 0. -/
def doReadoutIdentification (m : Mail) (s : State) : Answer := if readoutArg m = 0 then wbIdentification s else (s, .range, [])
def wbReadoutIdentificationRequest (m : Mail) : Request :=
  readoutRequest (.wbReadoutIdentification m) m (readoutKind m == 1) (doReadoutIdentification m)
def execWbReadoutIdentification (mail : Mail) (s : State) : Host.Outcome State Fault Refusal :=
  .next ((wbReadoutIdentificationRequest mail).arrive (.wbReadoutIdentification mail) s)

/-- WB_READOUT kind 2. -/
def doReadoutCertificate (m : Mail) (s : State) : Answer := wbCertificate s (readoutArg m)
def wbReadoutCertificateRequest (m : Mail) : Request :=
  readoutRequest (.wbReadoutCertificate m) m (readoutKind m == 2) (doReadoutCertificate m)
def execWbReadoutCertificate (mail : Mail) (s : State) : Host.Outcome State Fault Refusal :=
  .next ((wbReadoutCertificateRequest mail).arrive (.wbReadoutCertificate mail) s)

/-- WB_READOUT kind 3. -/
def doReadoutAuditEntry (m : Mail) (s : State) : Answer := wbAudit s (readoutArg m)
def wbReadoutAuditEntryRequest (m : Mail) : Request :=
  readoutRequest (.wbReadoutAuditEntry m) m (readoutKind m == 3) (doReadoutAuditEntry m)
def execWbReadoutAuditEntry (mail : Mail) (s : State) : Host.Outcome State Fault Refusal :=
  .next ((wbReadoutAuditEntryRequest mail).arrive (.wbReadoutAuditEntry mail) s)

/-- WB_READOUT kind 4, with argument 0. -/
def doReadoutChallenge (m : Mail) (s : State) : Answer := if readoutArg m = 0 then wbChallenge s else (s, .range, [])
def wbReadoutChallengeRequest (m : Mail) : Request :=
  readoutRequest (.wbReadoutChallenge m) m (readoutKind m == 4) (doReadoutChallenge m)
def execWbReadoutChallenge (mail : Mail) (s : State) : Host.Outcome State Fault Refusal :=
  .next ((wbReadoutChallengeRequest mail).arrive (.wbReadoutChallenge mail) s)

/-- WB_UTC (16 R429). -/
def doUtc (m : Mail) (s : State) : Answer := wbUtc s (field m.payload 0 8)
def wbUtcRequest (m : Mail) : Request := { mail := m, type := 0x0091, need := 8, act := toWeighbridge (.wbUtc m) (doUtc m) }
def execWbUtc (mail : Mail) (s : State) : Host.Outcome State Fault Refusal := .next ((wbUtcRequest mail).arrive (.wbUtc mail) s)

/-- WB_CALIBRATE (16 R430): the token form consumes the challenge even when it is refused before it is looked at. -/
def doCalibrate (m : Mail) (s : State) : Answer := wbCalibrate s m.payload
def wbCalibrateRequest (m : Mail) : Request :=
  { mail := m, type := 0x0092, need := if 1664 ≤ m.payload.length then 1664 else 16
    spare := field m.payload 1 3 != 0 || field m.payload 12 4 != 0
    refused := fun s => if 1664 ≤ m.payload.length then { s with wb := { s.wb with challenge := none } } else s
    act := toWeighbridge (.wbCalibrate m) (doCalibrate m) }
def execWbCalibrate (mail : Mail) (s : State) : Host.Outcome State Fault Refusal :=
  .next ((wbCalibrateRequest mail).arrive (.wbCalibrate mail) s)

/-! ### MCTP control (14 R378; log 11) -/

/-- A control command answered: the completion code and what follows it. -/
def answerControl (s : State) (eid : BitVec 8) (bs : List Byte) : State := { s with out := .mctp eid bs :: s.out }

/-- A control command arrives. -/
def arriveControl (i : Instr) (act : State → State) (s : State) : State :=
  if s.mgmt.service = .off then s else if processorRuns s 0 then act s else awaitMgmt s i

/-- SET_ENDPOINT_ID: identities 0 and 0xFF are not assigned. -/
def doSetEndpointId (eid new : BitVec 8) (s : State) : State :=
  if new = 0 ∨ new = 0xFF then answerControl s eid [0x02]
  else answerControl { s with mgmt := { s.mgmt with eid := new } } eid [0, 0, new, 0]
def execSetEndpointId (eid newEid : BitVec 8) (s : State) : Host.Outcome State Fault Refusal :=
  .next (arriveControl (.setEndpointId eid newEid) (doSetEndpointId eid newEid) s)

/-- GET_ENDPOINT_ID. -/
def doGetEndpointId (eid : BitVec 8) (s : State) : State := answerControl s eid [0, s.mgmt.eid, 0, 0]
def execGetEndpointId (eid : BitVec 8) (s : State) : Host.Outcome State Fault Refusal :=
  .next (arriveControl (.getEndpointId eid) (doGetEndpointId eid) s)

/-- GET_MCTP_VERSION_SUPPORT: of the base specification, control messages and the vendor-defined type. -/
def doGetMctpVersionSupport (eid msgType : BitVec 8) (s : State) : State :=
  if msgType = 0xFF ∨ msgType = 0 ∨ msgType = 0x7F then
    let vs := Config.mctpVersions msgType
    answerControl s eid ([0, BitVec.ofNat 8 (vs.length / 4)] ++ vs)
  else answerControl s eid [0x80]
def execGetMctpVersionSupport (eid msgType : BitVec 8) (s : State) : Host.Outcome State Fault Refusal :=
  .next (arriveControl (.getMctpVersionSupport eid msgType) (doGetMctpVersionSupport eid msgType) s)

/-- GET_MESSAGE_TYPE_SUPPORT: the vendor-defined type 0x7F. -/
def doGetMessageTypeSupport (eid : BitVec 8) (s : State) : State := answerControl s eid [0, 1, 0x7F]
def execGetMessageTypeSupport (eid : BitVec 8) (s : State) : Host.Outcome State Fault Refusal :=
  .next (arriveControl (.getMessageTypeSupport eid) (doGetMessageTypeSupport eid) s)

/-- GET_VENDOR_DEFINED_MESSAGE_SUPPORT: one set, Horxa's enterprise number. -/
def doGetVendorSupport (eid selector : BitVec 8) (s : State) : State :=
  if selector = 0 then
    answerControl s eid ([0, 0xFF, 1] ++ beBytes 4 s.mgmt.fuses.enterprise.toNat ++ (leBytes 2 Config.vendorVersion.toNat).reverse)
  else answerControl s eid [0x02]
def execGetVendorDefinedMessageSupport (eid selector : BitVec 8) (s : State) : Host.Outcome State Fault Refusal :=
  .next (arriveControl (.getVendorDefinedMessageSupport eid selector) (doGetVendorSupport eid selector) s)

/-! ### Messages dropped (14 R379, R384) -/

/-- The message types of the catalogue (14 R384). -/
def messageTypes : List Nat :=
  [0x01, 0x02, 0x03, 0x10, 0x11, 0x12, 0x20, 0x21, 0x22, 0x23, 0x30, 0x31, 0x40, 0x41, 0x50, 0x51, 0x52, 0x53, 0x60, 0x61, 0x70, 0x71,
    0x72, 0x73, 0x80, 0x81, 0x90, 0x91, 0x92]

/-- Whether a message fails the header's checks. -/
def badMessage (raw : List Byte) : Bool :=
  decide (raw.length < 16) || bit (field raw 2 2) 15 || decide (4096 < field raw 8 4) || field raw 8 4 != raw.length - 16
    || crc crc32c (raw.take 12 ++ raw.drop 16) != field raw 12 4

/-- A request of an unlisted TYPE. -/
def unlistedRequest (src : Src) (via : Via) (raw : List Byte) : Request :=
  { mail := ⟨src, via, BitVec.ofNat 32 (field raw 4 4), field raw 0 1, field raw 1 1, raw.drop 16⟩, type := field raw 2 2
    need := raw.length - 16, act := fun s => .answer (s, .range, []) }

/-- DROPPED_MESSAGE served: dropped and counted, or refused with E_RANGE. -/
def serveDropped (src : Src) (via : Via) (raw : List Byte) (s : State) : State :=
  if badMessage raw then { s with mgmt := { s.mgmt with dropped := s.mgmt.dropped + 1 } }
  else serve (.droppedMessage src via raw) s (unlistedRequest src via raw)

/-- Whether a message is well formed and of a listed TYPE, so that another row serves it. -/
def listedMessage (raw : List Byte) : Bool := !badMessage raw && messageTypes.contains (field raw 2 2)

/-- DROPPED_MESSAGE (14 R379; 10 R263). A source off the permitted list is dropped whatever the message is. -/
def execDroppedMessage (src : Src) (via : Via) (raw : List Byte) (s : State) : Host.Outcome State Fault Refusal :=
  let i := Instr.droppedMessage src via raw
  .next (
    if !listedMessage raw then arrive i src via raw.length true (serveDropped src via raw) s
    else
      match src with
      | .udp a _ => if s.ports.net.sources.isEmpty || s.ports.net.sources.contains a then s else arrive i src via raw.length true id s
      | .mctp _ => s)

/-! ### What waited for the management processor (14 R376) -/

/-- The request of a message row. -/
def requestOf : Instr → Option Request
  | .closeSession m => some (closeRequest m)
  | .readResult m => some (readResultRequest m)
  | .loadImage m r => some (loadImageRequest m r)
  | .clearStanding m => some (clearStandingRequest m)
  | .enrollImageKey m => some (enrollImageKeyRequest m)
  | .setCap m => some (setCapRequest m)
  | .setPowerStateRun m => some (setPowerStateRunRequest m)
  | .setPowerStateIdle m => some (setPowerStateIdleRequest m)
  | .setPowerStateRest m => some (setPowerStateRestRequest m)
  | .resetField m => some (resetFieldRequest m)
  | .resetQuarter m => some (resetQuarterRequest m)
  | .resetPackageWarm m => some (resetPackageWarmRequest m)
  | .restartProc m => some (restartProcRequest m)
  | .readFaults m => some (readFaultsRequest m)
  | .readRetirements m => some (readRetirementsRequest m)
  | .getCert m => some (getCertRequest m)
  | .attest m => some (attestRequest m)
  | .qpCreate m => some (qpCreateRequest m)
  | .qpModify m => some (qpModifyRequest m)
  | .qpDestroy m => some (qpDestroyRequest m)
  | .setNet m => some (setNetRequest m)
  | .diagRunTileTest m f => some (diagRunTileTestRequest m f)
  | .diagRunDestructive m f => some (diagRunDestructiveRequest m f)
  | .diagRunReadCheck m => some (diagRunReadCheckRequest m)
  | .patternPackInstall m => some (patternPackInstallRequest m)
  | .patternPackRunNow m f => some (patternPackRunNowRequest m f)
  | .patternPackRemove m => some (patternPackRemoveRequest m)
  | .fwUpdate m => some (fwUpdateRequest m)
  | .fwWrite m => some (fwWriteRequest m)
  | .fwCommit m => some (fwCommitRequest m)
  | .fwAccept m => some (fwAcceptRequest m)
  | .testChallenge m => some (testChallengeRequest m)
  | .testUnlock m => some (testUnlockRequest m)
  | .wbReadoutRecord m => some (wbReadoutRecordRequest m)
  | .wbReadoutIdentification m => some (wbReadoutIdentificationRequest m)
  | .wbReadoutCertificate m => some (wbReadoutCertificateRequest m)
  | .wbReadoutAuditEntry m => some (wbReadoutAuditEntryRequest m)
  | .wbReadoutChallenge m => some (wbReadoutChallengeRequest m)
  | .wbUtc m => some (wbUtcRequest m)
  | .wbCalibrate m => some (wbCalibrateRequest m)
  | _ => none

/-- A message that waited, served. -/
def serveWaiting (s : State) (i : Instr) : State :=
  if !processorRuns s 0 then awaitMgmt s i
  else
    match i with
    | .openSession m => serveOpen m s
    | .setEndpointId e n => doSetEndpointId e n s
    | .getEndpointId e => doGetEndpointId e s
    | .getMctpVersionSupport e t => doGetMctpVersionSupport e t s
    | .getMessageTypeSupport e => doGetMessageTypeSupport e s
    | .getVendorDefinedMessageSupport e k => doGetVendorSupport e k s
    | .droppedMessage src via raw => if listedMessage raw then s else serveDropped src via raw s
    | i => match requestOf i with
      | some r => serve i s r
      | none => s

/-- What the weighbridge does for a message that waited for it: the message, its TYPE and its answer. -/
def weighbridgeWork : Instr → Option (Mail × Nat × (State → Answer))
  | .wbReadoutRecord m => some (m, 0x0090, doReadoutRecord m)
  | .wbReadoutIdentification m => some (m, 0x0090, doReadoutIdentification m)
  | .wbReadoutCertificate m => some (m, 0x0090, doReadoutCertificate m)
  | .wbReadoutAuditEntry m => some (m, 0x0090, doReadoutAuditEntry m)
  | .wbReadoutChallenge m => some (m, 0x0090, doReadoutChallenge m)
  | .wbUtc m => some (m, 0x0091, doUtc m)
  | .wbCalibrate m => some (m, 0x0092, doCalibrate m)
  | _ => none

/-- A message that waited for the weighbridge, served. -/
def serveWeighbridge (s : State) (i : Instr) : State :=
  match weighbridgeWork i with
  | some (m, type, f) =>
    let (s, st, bs) := f s
    completeLater s m.src m.via.mac type m.seq st bs
  | none => s

/-- The management processor runs again: the budgets are sent again (13 R354), and what waited is served in its order. -/
def mgmtReturns (s : State) : State :=
  let ws := s.mgmt.waiting
  noteBuffers (ws.foldl serveWaiting (spreadBudgets { s with mgmt := { s.mgmt with waiting := [], waitBytes := 0 } }))

/-- A request that waited for a processor: acted on when all that it needs run, unless its session is gone (14 R376). -/
def resumeRequest (s : State) (i : Instr) : State :=
  match requestOf i with
  | some r =>
    match sessionOf s r.mail.src with
    | some x => if x.executing = some r.mail.seq then perform i s r x.minor else s
    | none => s
  | none => s

/-- The requests that waited for a processor, in their order. -/
def resumeParked (s : State) : State := s.mgmt.parked.foldl resumeRequest { s with mgmt := { s.mgmt with parked := [] } }

/-- PROCESSOR_RESTART_END (14 R376; 16 R418, R432). -/
def execProcessorRestartEnd (proc : Nat) (s : State) : Host.Outcome State Fault Refusal :=
  .next (
    if proc = 9 then
      if s.wb.restarting then
        let ws := s.wb.waiting
        ws.foldl serveWeighbridge { s with wb := { s.wb with restarting := false, waiting := [] } }
      else s
    else if proc < 9 ∧ !processorRuns s proc then
      let s := { s with mgmt := { s.mgmt with restarting := SMap.erase s.mgmt.restarting proc } }
      if proc = 0 then mgmtReturns s else resumeStalled (resumeParked s)
    else s)

/-! ### The quarter loop (13 R357) -/

/-- The end of a quarter's reset (15 R411; log 8): its ports that train send IDENT (10 R273), and the RESETs that called for it are
answered (14 R384). -/
def endQuarterReset (s : State) (q : Nat) : State :=
  let s := setQuarter s q { quarterOf s q with inReset := false }
  let s := ((List.range 6).filter fun k => portQuarter k == q && (portOf s k).state == .training).foldl sendIdents s
  let ws := SMap.get [] s.mgmt.resetReply q
  let s := { s with mgmt := { s.mgmt with resetReply := SMap.erase s.mgmt.resetReply q } }
  ws.foldl (fun s w => completeLater s w.1 w.2.1 0x0022 w.2.2 .ok []) s

/-- QUARTER_LOOP_ITERATION (13 R357): the quarter's controller runs its loop; the first iteration after a reset of the quarter ends
it (log 8). H0, when it trains, comes up by the next iteration of Q0. -/
def execQuarterLoopIteration (quarter : Nat) (reading : LoopReading) (s : State) : Host.Outcome State Fault Refusal :=
  .next (
    if quarter < 4 ∧ processorRuns s (1 + quarter) ∧ s.power.pllLocked ∧ (quarterOf s quarter).inService then
      let s := if (quarterOf s quarter).inReset then endQuarterReset s quarter else loopStep s quarter reading
      if quarter = 0 ∧ linkRuns s 0 then h0Return s reading.fast else s
    else s)

end Sys2Proof.Machine
end

