-- ==== Sys2Proof/Machine/Tap.lean ====
section
/-! DEFINITION. Test access (17 R445 to R447): one instruction register for each die of the chain. What a register holds is the
instruction that the die acts on. -/
namespace Sys2Proof.Machine

/-- The dies of the chain: B0, C0, B1, C1, B3, C3, B2, C2 (17 R445): a die's quarter, and whether it is a base die. -/
def dieQuarter (die : Nat) : Nat := ([0, 0, 1, 1, 3, 3, 2, 2] : List Nat).getD die 0
def dieIsBase (die : Nat) : Bool := die % 2 == 0

/-- The instruction in force on a die: IDCODE after reset (log 14). -/
def tapOf (s : State) (die : Nat) : Nat := SMap.get 0x01 s.tap.ir die
def setTap (s : State) (die code : Nat) : State := { s with tap := { s.tap with ir := SMap.set 0x01 s.tap.ir die code } }

/-- An instruction loaded on a die: it acts as BYPASS when its scope is closed or its condition fails; the latter makes a record
(17 R446). -/
def loadTap (s : State) (die code : Nat) (scope condition : Bool) : State :=
  if !s.power.pwrgood || 8 ≤ die then s
  else if !scope then setTap s die 0xFF
  else if !condition then logFault (setTap s die 0xFF) (mkFault s 0x12 .ok (dieQuarter die))
  else setTap s die code

/-- Whether a test scope is open (14 R392). -/
def scopeOpen (s : State) (k : Nat) : Bool := bit s.mgmt.scopes k

/-- Whether no field exists. -/
def noField (s : State) : Bool := (loadedFields s).isEmpty

/-- TAP_RESET (17 R445): every TAP. -/
def execTapReset (s : State) : Host.Outcome State Fault Refusal := .next { s with tap := {} }

/-- BYPASS. -/
def execBypass (die : Nat) (s : State) : Host.Outcome State Fault Refusal := .next (loadTap s die 0xFF true true)

/-- IDCODE (17 R447). -/
def execIdcode (die : Nat) (s : State) : Host.Outcome State Fault Refusal := .next (loadTap s die 0x01 true true)

/-- SAMPLE/PRELOAD. -/
def execSamplePreload (die : Nat) (s : State) : Host.Outcome State Fault Refusal := .next (loadTap s die 0x02 (scopeOpen s 0) true)

/-- EXTEST. -/
def execExtest (die : Nat) (s : State) : Host.Outcome State Fault Refusal := .next (loadTap s die 0x03 (scopeOpen s 0) (noField s))

/-- CLAMP. -/
def execClamp (die : Nat) (s : State) : Host.Outcome State Fault Refusal := .next (loadTap s die 0x04 (scopeOpen s 0) (noField s))

/-- HIGHZ. -/
def execHighz (die : Nat) (s : State) : Host.Outcome State Fault Refusal := .next (loadTap s die 0x05 (scopeOpen s 0) (noField s))

/-- Whether a field uses a die: a plot on a compute die, a granule on a base die's channels. -/
def dieUsed (s : State) (die : Nat) : Bool :=
  (loadedFields s).any fun f => ((fieldOf s f).map fun fd =>
    if dieIsBase die then hasGranule s fd (dieQuarter die) else fd.quarters.contains (dieQuarter die)).getD false

/-- INTEST_1500. -/
def execIntest1500 (die : Nat) (s : State) : Host.Outcome State Fault Refusal :=
  .next (loadTap s die 0x10 (scopeOpen s (if dieIsBase die then 1 else 2)) (!dieUsed s die))

/-- STACK_1500, on base dies only. -/
def execStack1500 (die : Nat) (s : State) : Host.Outcome State Fault Refusal :=
  .next (loadTap s die 0x20 (dieIsBase die && scopeOpen s 3) (noField s))

/-- The IDCODE register of a die (17 R447). -/
def idcodeOf (s : State) (die : Nat) : Nat :=
  pack [(0, 1), (1, Config.jep106.toNat), (12, if dieIsBase die then 0x7A40 else 0x7A41), (28, SMap.get 1 s.mgmt.fuses.revisions die % 16)]

end Sys2Proof.Machine
end

