-- ==== Sys2Proof/Machine/Move.lean ====
section
/-! DEFINITION. MOVE COPY and FILL (08 R216 to R220). FENCE stands with the lofts. -/
namespace Sys2Proof.Machine

/-- The block extents E0 and E1 of a MOVE step (08 R218). -/
def moveE0 (w : BitVec 128) : Nat := bits (stepLo w) 19 0
def moveE1 (w : BitVec 128) : Nat := 4096 * bits (stepHi w) 7 0 + bits (stepLo w) 31 20
def moveNoAlloc (w : BitVec 128) : Bool := bit (stepHi w) 13
/-- FILL's pattern. -/
def fillPattern (w : BitVec 128) : Nat := 65536 * stepA w + stepB w

/-- Reserved bits of a MOVE step word. -/
def moveReserved (w : BitVec 128) : Bool := bits (stepHi w) 12 8 != 0 || stepUnit w != 0

/-- Whether a block of n0 × n1 from an operand's origin lies within its extents, in the matrix that the origin selects. -/
def moveWithin (o : Operand) (n0 n1 : Nat) : Bool :=
  o.origin.i0 + n0 ≤ o.d.ext.i0 && o.origin.i1 + n1 ≤ o.d.ext.i1 && o.origin.i2 < o.d.ext.i2 && o.origin.i3 < o.d.ext.i3

/-- Conditions on one operand of a MOVE step (08 R220). -/
def moveOperand (s : State) (e : Env) (slot : Nat) (origin : Pos) (accepts : Fmt → Bool) (dest : Bool) : List (Bool × Status) :=
  let c := operandConds s e slot origin accepts false
  if c.any (·.1) then c
  else
    let o := operand s e slot origin
    let n0 := moveE0 e.word
    let n1 := moveE1 e.word
    if !moveWithin o n0 n1 then [(true, .range)]
    else [(dest && o.d.layout == 2, .range)] ++ runConds s e dest (elemRuns o.d (blockPos origin n0 n1))

/-- The runs of an operand's block. -/
def moveRuns (e : Env) (o : Operand) : List (Nat × Nat) := elemRuns o.d (blockPos o.origin (moveE0 e.word) (moveE1 e.word))

/-- What an operand of a MOVE step touches, when its form passes. -/
def moveTouches (s : State) (e : Env) (slot : Nat) (origin : Pos) (accepts : Fmt → Bool) (dest : Bool) : List (Bool × List (Nat × Nat)) :=
  if (operandConds s e slot origin accepts false).any (·.1) then []
  else
    let o := operand s e slot origin
    if moveWithin o (moveE0 e.word) (moveE1 e.word) then [(dest, moveRuns e o)] else []

/-- The conditions of COPY. -/
def copyConds (s : State) (e : Env) : List (Bool × Status) :=
  let w := e.word
  let ca := moveOperand s e (stepA w) e.originA (fun _ => true) false
  let cd := moveOperand s e (stepD w) e.originD (fun _ => true) true
  let first := [(moveReserved w || stepB w != 0xFFFF, Status.reserved)] ++ ca ++ cd
  if first.any (·.1) then first
  else
    let a := operand s e (stepA w) e.originA
    let d := operand s e (stepD w) e.originD
    [(a.d.fmtCode != d.d.fmtCode || runsOverlap (moveRuns e a) (moveRuns e d), .range)]

/-- Row r of a block. -/
def rowPos (o : Pos) (n0 r : Nat) : List Pos := (List.range n0).map fun c => ⟨o.i0 + c, o.i1 + r, o.i2, o.i3⟩

/-- COPY's accesses: each row read, then written (08 R219, R220). -/
def copyAccs (s : State) (e : Env) (a d : Operand) : List Acc :=
  let n0 := moveE0 e.word
  (List.range (moveE1 e.word)).flatMap fun r =>
    let src := rowPos a.origin n0 r
    let dst := rowPos d.origin n0 r
    readsOf a.d src true (!moveNoAlloc e.word)
      ++ writesOf d.d ((List.zip dst src).map fun p => (p.1, elemCode s (some e.quarter) a.d p.2))

/-- COPY (08 R219, R220). -/
def doCopy (s : State) (e : Env) : StepEnd :=
  if stepOp e.word ≠ 1 then .fail s .reserved
  else
    let slots := issueSlots s e [stepA e.word, stepD e.word] [] []
    let s := readSlots s e slots
    let st := Status.lowest (copyConds s e)
    if st ≠ .ok then
      refuseStep s e st (moveTouches s e (stepA e.word) e.originA (fun _ => true) false
        ++ moveTouches s e (stepD e.word) e.originD (fun _ => true) true)
    else
      let a := operand s e (stepA e.word) e.originA
      let d := operand s e (stepD e.word) e.originD
      if runsCut s e (moveRuns e a ++ moveRuns e d) then .block (latch s e slots)
      else
        let (s, st) := runAccs s e (copyAccs s e a d)
        .done s st []

/-- COPY, and the reserved MOVE operations (log 1). `hops` are the words that the base-die network or the face bond makes
uncorrectable on their way (09 R239, R241; log 8). -/
def execCopy (tile ctx : Nat) (hops : List Nat) (s : State) : Host.Outcome State Fault Refusal :=
  .next (runStep s tile ctx 0x06 (fun op => op == 1 || op == 0 || 4 ≤ op) fun s e => doCopy s { e with hops := hops })

/-- The conditions of FILL. -/
def fillConds (s : State) (e : Env) : List (Bool × Status) :=
  [(moveReserved e.word, Status.reserved)] ++ moveOperand s e (stepD e.word) e.originD (· != .none) true

/-- FILL's writes, row by row. -/
def fillAccs (e : Env) (d : Operand) : List Acc :=
  (List.range (moveE1 e.word)).flatMap fun r =>
    writesOf d.d ((rowPos d.origin (moveE0 e.word) r).map fun p => (p, fillPattern e.word % 2 ^ d.d.fmt.width))

/-- FILL (08 R219, R220). -/
def doFill (s : State) (e : Env) : StepEnd :=
  let slots := issueSlots s e [stepD e.word] [] []
  let s := readSlots s e slots
  let st := Status.lowest (fillConds s e)
  if st ≠ .ok then refuseStep s e st (moveTouches s e (stepD e.word) e.originD (· != .none) true)
  else
    let d := operand s e (stepD e.word) e.originD
    if runsCut s e (moveRuns e d) then .block (latch s e slots)
    else
      let (s, st) := runAccs s e (fillAccs e d)
      .done s st []

def execFill (tile ctx : Nat) (s : State) : Host.Outcome State Fault Refusal :=
  .next (runStep s tile ctx 0x06 (· == 3) doFill)

end Sys2Proof.Machine
end

