-- ==== Sys2Proof/Machine/Unblock.lean ====
section
/-! DEFINITION. A Blocked step taken up again (03 R71, R73). -/
namespace Sys2Proof.Machine

/-- What a step that can be Blocked does, by its class and operation. An array meets no parity error when its step is taken up again
(log 8). -/
def blockedAct (cls op : Nat) : Option (State → Env → StepEnd) :=
  match cls with
  | 0x00 => if op = 2 then some doItemEnd else none
  | 0x02 =>
    match op with
    | 2 => some doWait | 3 => some doArriveWait | 4 => some doSignal | 5 => some doSignalFenced | 6 => some doWaitSignal
    | _ => some doArrive
  | 0x03 =>
    match op with
    | 2 => some doTake | 3 => some doPoolPut
    | _ => some doEnqueue
  | 0x04 =>
    match op with
    | 2 => some (doArray .split3 none) | 3 => some (doArray .cplx3 none) | 4 => some (doArray .cplx4 none) | 5 => some (doArray .wide8 none)
    | 6 => some (doArray .matmul none)
    | _ => some (doMatmul none)
  | 0x05 => some doChain
  | 0x06 =>
    match op with
    | 2 => some doFence | 3 => some doFill
    | _ => some doCopy
  | 0x07 => if op = 2 then some doSweep else some doGather
  | 0x08 => some doFeed
  | 0x09 =>
    match op with
    | 2 => some (doColl .reduceScatter) | 3 => some (doColl .allGather) | 4 => some (doColl .scalarAllreduce)
    | 5 => some (doColl .barrier) | 6 => some (doColl .signalPeer)
    | _ => some doAllreduce
  | 0x0A =>
    match op with
    | 2 => some doPop | 3 => some doClear
    | _ => some doPush
  | 0x0B =>
    match op with
    | 2 => some doPrepare | 3 => some doCommit | 4 => some doApply | 5 => some doClose | 6 => some doRecover | 7 => some doTag
    | 8 => some doGencheck
    | _ => some doInit
  | _ => none

/-- STEP_UNBLOCK (03 R71): the step acts as at its issue, which was counted then; it stays Blocked while what it waits for is
missing. -/
def execStepUnblock (tile ctx : Nat) (s : State) : Host.Outcome State Fault Refusal :=
  .next (match envAt s tile ctx .blocked with
    | some e =>
      match blockedAct (stepClass e.word) (stepOp e.word) with
      | some act => endStep tile ctx e.word (act (setCtx s tile ctx { ctxOf s tile ctx with state := .running }) e)
      | none => s
    | none => s)

end Sys2Proof.Machine
end

