-- ==== Sys2Proof/Machine/Dispatch.lean ====
section
/-! DEFINITION. The meaning of every command: one arm per constructor of Instr. -/
namespace Sys2Proof.Machine

def exec (i : Instr) (s : State) : Host.Outcome State Fault Refusal :=
  match i with
  | .nop tile ctx => Sys2Proof.Machine.execNop tile ctx s
  | .setloop tile ctx => Sys2Proof.Machine.execSetloop tile ctx s
  | .itemEnd tile ctx => Sys2Proof.Machine.execItemEnd tile ctx s
  | .halt tile ctx => Sys2Proof.Machine.execHalt tile ctx s
  | .pred tile ctx => Sys2Proof.Machine.execPred tile ctx s
  | .stepTableRefetch tile index => Sys2Proof.Machine.execStepTableRefetch tile index s
  | .stepUnblock tile ctx => Sys2Proof.Machine.execStepUnblock tile ctx s
  | .arrive tile ctx => Sys2Proof.Machine.execArrive tile ctx s
  | .wait tile ctx => Sys2Proof.Machine.execWait tile ctx s
  | .arriveWait tile ctx => Sys2Proof.Machine.execArriveWait tile ctx s
  | .signal tile ctx => Sys2Proof.Machine.execSignal tile ctx s
  | .signalFenced tile ctx => Sys2Proof.Machine.execSignalFenced tile ctx s
  | .waitSignal tile ctx => Sys2Proof.Machine.execWaitSignal tile ctx s
  | .wakePulse quarter wire tile => Sys2Proof.Machine.execWakePulse quarter wire tile s
  | .waitTimeout tile ctx => Sys2Proof.Machine.execWaitTimeout tile ctx s
  | .enqueue tile ctx => Sys2Proof.Machine.execEnqueue tile ctx s
  | .take tile ctx => Sys2Proof.Machine.execTake tile ctx s
  | .gleanAnswer tile ctx => Sys2Proof.Machine.execGleanAnswer tile ctx s
  | .poolPut tile ctx => Sys2Proof.Machine.execPoolPut tile ctx s
  | .matmul tile ctx upset => Sys2Proof.Machine.execMatmul tile ctx upset s
  | .split3 tile ctx upset => Sys2Proof.Machine.execSplit3 tile ctx upset s
  | .cplx3 tile ctx upset => Sys2Proof.Machine.execCplx3 tile ctx upset s
  | .cplx4 tile ctx upset => Sys2Proof.Machine.execCplx4 tile ctx upset s
  | .wide8 tile ctx upset => Sys2Proof.Machine.execWide8 tile ctx upset s
  | .matmulStall tile ctx upset => Sys2Proof.Machine.execMatmulStall tile ctx upset s
  | .chaffDensityStep tile region upset => Sys2Proof.Machine.execChaffDensityStep tile region upset s
  | .chainRun tile ctx => Sys2Proof.Machine.execChainRun tile ctx s
  | .copy tile ctx hops => Sys2Proof.Machine.execCopy tile ctx hops s
  | .fence tile ctx => Sys2Proof.Machine.execFence tile ctx s
  | .fill tile ctx => Sys2Proof.Machine.execFill tile ctx s
  | .loftFillReturn die line upsets => Sys2Proof.Machine.execLoftFillReturn die line upsets s
  | .loftInvalidation die order => Sys2Proof.Machine.execLoftInvalidation die order s
  | .gather tile ctx => Sys2Proof.Machine.execGather tile ctx s
  | .sweep tile ctx => Sys2Proof.Machine.execSweep tile ctx s
  | .sweepGo writer quarter engine value => Sys2Proof.Machine.execSweepGo writer quarter engine value s
  | .feed tile ctx => Sys2Proof.Machine.execFeed tile ctx s
  | .allreduce tile ctx => Sys2Proof.Machine.execAllreduce tile ctx s
  | .reduceScatter tile ctx => Sys2Proof.Machine.execReduceScatter tile ctx s
  | .allGather tile ctx => Sys2Proof.Machine.execAllGather tile ctx s
  | .scalarAllreduce tile ctx => Sys2Proof.Machine.execScalarAllreduce tile ctx s
  | .barrier tile ctx => Sys2Proof.Machine.execBarrier tile ctx s
  | .signalPeer tile ctx => Sys2Proof.Machine.execSignalPeer tile ctx s
  | .collectiveCommandStart group => Sys2Proof.Machine.execCollectiveCommandStart group s
  | .chunkArrival group header => Sys2Proof.Machine.execChunkArrival group header s
  | .collectiveCommandEnd group => Sys2Proof.Machine.execCollectiveCommandEnd group s
  | .collectiveTimeout group => Sys2Proof.Machine.execCollectiveTimeout group s
  | .rejoinTokenTimer group => Sys2Proof.Machine.execRejoinTokenTimer group s
  | .push tile ctx => Sys2Proof.Machine.execPush tile ctx s
  | .pop tile ctx => Sys2Proof.Machine.execPop tile ctx s
  | .clear tile ctx => Sys2Proof.Machine.execClear tile ctx s
  | .init tile ctx => Sys2Proof.Machine.execInit tile ctx s
  | .prepare tile ctx => Sys2Proof.Machine.execPrepare tile ctx s
  | .commit tile ctx => Sys2Proof.Machine.execCommit tile ctx s
  | .apply tile ctx => Sys2Proof.Machine.execApply tile ctx s
  | .updateClose tile ctx => Sys2Proof.Machine.execUpdateClose tile ctx s
  | .recover tile ctx => Sys2Proof.Machine.execRecover tile ctx s
  | .tag tile ctx => Sys2Proof.Machine.execTag tile ctx s
  | .gencheck tile ctx => Sys2Proof.Machine.execGencheck tile ctx s
  | .statisticsUpdate update => Sys2Proof.Machine.execStatisticsUpdate update s
  | .repeatCompare tile ctx copy => Sys2Proof.Machine.execRepeatCompare tile ctx copy s
  | .repeatResolve tile ctx third rerun => Sys2Proof.Machine.execRepeatResolve tile ctx third rerun s
  | .repeatTimeout tile ctx => Sys2Proof.Machine.execRepeatTimeout tile ctx s
  | .repeatSummary quarter => Sys2Proof.Machine.execRepeatSummary quarter s
  | .provingItemRun tile item writes => Sys2Proof.Machine.execProvingItemRun tile item writes s
  | .stackTemperatureRead stack celsius => Sys2Proof.Machine.execStackTemperatureRead stack celsius s
  | .patrolRead channel row upsets => Sys2Proof.Machine.execPatrolRead channel row upsets s
  | .rowRepair channel row spares wrapperFault => Sys2Proof.Machine.execRowRepair channel row spares wrapperFault s
  | .correctedSummary quarter ports => Sys2Proof.Machine.execCorrectedSummary quarter ports s
  | .firmwareSignalWrite proc quarter word value => Sys2Proof.Machine.execFirmwareSignalWrite proc quarter word value s
  | .registerWrite writer addr data => Sys2Proof.Machine.execRegisterWrite writer addr data s
  | .rdmaWrite req data => Sys2Proof.Machine.execRdmaWrite req data s
  | .rdmaReadRequest req length => Sys2Proof.Machine.execRdmaReadRequest req length s
  | .roceRefusedOperation req => Sys2Proof.Machine.execRoceRefusedOperation req s
  | .cnpReceived qpn => Sys2Proof.Machine.execCnpReceived qpn s
  | .readRateRecovery qpn => Sys2Proof.Machine.execReadRateRecovery qpn s
  | .arpRequest mac vlan target => Sys2Proof.Machine.execArpRequest mac vlan target s
  | .neighbourSolicitation mac vlan target => Sys2Proof.Machine.execNeighbourSolicitation mac vlan target s
  | .icmpEcho mac vlan target data => Sys2Proof.Machine.execIcmpEcho mac vlan target data s
  | .pfcFrame priority pause => Sys2Proof.Machine.execPfcFrame priority pause s
  | .h0RateRetry up => Sys2Proof.Machine.execH0RateRetry up s
  | .writeFlit port flit => Sys2Proof.Machine.execWriteFlit port flit s
  | .signalFlit port flit => Sys2Proof.Machine.execSignalFlit port flit s
  | .refuseFlit port flit => Sys2Proof.Machine.execRefuseFlit port flit s
  | .abandonFlit port flit => Sys2Proof.Machine.execAbandonFlit port flit s
  | .nakFlit port flit => Sys2Proof.Machine.execNakFlit port flit s
  | .identFlit port module flit => Sys2Proof.Machine.execIdentFlit port module flit s
  | .idleFlit port flit => Sys2Proof.Machine.execIdleFlit port flit s
  | .slotRelease port flit => Sys2Proof.Machine.execSlotRelease port flit s
  | .partitionNotice port flit => Sys2Proof.Machine.execPartitionNotice port flit s
  | .rejoinToken port flit => Sys2Proof.Machine.execRejoinToken port flit s
  | .readyToken port flit => Sys2Proof.Machine.execReadyToken port flit s
  | .groupCheck port flit => Sys2Proof.Machine.execGroupCheck port flit s
  | .replayTimeout port => Sys2Proof.Machine.execReplayTimeout port s
  | .moduleOutOfService port module cause => Sys2Proof.Machine.execModuleOutOfService port module cause s
  | .moduleRetrainTimer port module trained => Sys2Proof.Machine.execModuleRetrainTimer port module trained s
  | .cmisPoll port module memory corrected uncorrectable => Sys2Proof.Machine.execCmisPoll port module memory corrected uncorrectable s
  | .identHeartbeat port => Sys2Proof.Machine.execIdentHeartbeat port s
  | .d2dResendRequest link progress => Sys2Proof.Machine.execD2dResendRequest link progress s
  | .ringLinkRetrain link maskA maskB => Sys2Proof.Machine.execRingLinkRetrain link maskA maskB s
  | .referenceLoss => Sys2Proof.Machine.execReferenceLoss s
  | .pllRelock env => Sys2Proof.Machine.execPllRelock env s
  | .quarterLoopIteration quarter reading => Sys2Proof.Machine.execQuarterLoopIteration quarter reading s
  | .droop plot => Sys2Proof.Machine.execDroop plot s
  | .droopRecovery plot => Sys2Proof.Machine.execDroopRecovery plot s
  | .supplyWarning quarter rail => Sys2Proof.Machine.execSupplyWarning quarter rail s
  | .warningRecoveryStep quarter => Sys2Proof.Machine.execWarningRecoveryStep quarter s
  | .warningSummary quarter => Sys2Proof.Machine.execWarningSummary quarter s
  | .supplyReset quarter rails => Sys2Proof.Machine.execSupplyReset quarter rails s
  | .railOutOfRange event => Sys2Proof.Machine.execRailOutOfRange event s
  | .junctionLimit quarter sensor celsius => Sys2Proof.Machine.execJunctionLimit quarter sensor celsius s
  | .junctionHoldRelease quarter => Sys2Proof.Machine.execJunctionHoldRelease quarter s
  | .thermalTrip quarter sensor celsius => Sys2Proof.Machine.execThermalTrip quarter sensor celsius s
  | .powerOnReset env => Sys2Proof.Machine.execPowerOnReset env s
  | .fullServiceEntry env => Sys2Proof.Machine.execFullServiceEntry env s
  | .packageWarmReset env => Sys2Proof.Machine.execPackageWarmReset env s
  | .warmResetInput => Sys2Proof.Machine.execWarmResetInput s
  | .computeDieReset quarter => Sys2Proof.Machine.execComputeDieReset quarter s
  | .watchdogExpiry proc => Sys2Proof.Machine.execWatchdogExpiry proc s
  | .standingImageWrite => Sys2Proof.Machine.execStandingImageWrite s
  | .bottomTreeBuild => Sys2Proof.Machine.execBottomTreeBuild s
  | .faultLogFlush => Sys2Proof.Machine.execFaultLogFlush s
  | .openSession mail => Sys2Proof.Machine.execOpenSession mail s
  | .closeSession mail => Sys2Proof.Machine.execCloseSession mail s
  | .readResult mail => Sys2Proof.Machine.execReadResult mail s
  | .loadImage mail restartAfter => Sys2Proof.Machine.execLoadImage mail restartAfter s
  | .clearStanding mail => Sys2Proof.Machine.execClearStanding mail s
  | .enrollImageKey mail => Sys2Proof.Machine.execEnrollImageKey mail s
  | .setCap mail => Sys2Proof.Machine.execSetCap mail s
  | .setPowerStateRun mail => Sys2Proof.Machine.execSetPowerStateRun mail s
  | .setPowerStateIdle mail => Sys2Proof.Machine.execSetPowerStateIdle mail s
  | .setPowerStateRest mail => Sys2Proof.Machine.execSetPowerStateRest mail s
  | .resetField mail => Sys2Proof.Machine.execResetField mail s
  | .resetQuarter mail => Sys2Proof.Machine.execResetQuarter mail s
  | .resetPackageWarm mail => Sys2Proof.Machine.execResetPackageWarm mail s
  | .restartProc mail => Sys2Proof.Machine.execRestartProc mail s
  | .readFaults mail => Sys2Proof.Machine.execReadFaults mail s
  | .readRetirements mail => Sys2Proof.Machine.execReadRetirements mail s
  | .getCert mail => Sys2Proof.Machine.execGetCert mail s
  | .attest mail => Sys2Proof.Machine.execAttest mail s
  | .qpCreate mail => Sys2Proof.Machine.execQpCreate mail s
  | .qpModify mail => Sys2Proof.Machine.execQpModify mail s
  | .qpDestroy mail => Sys2Proof.Machine.execQpDestroy mail s
  | .setNet mail => Sys2Proof.Machine.execSetNet mail s
  | .diagRunTileTest mail failures => Sys2Proof.Machine.execDiagRunTileTest mail failures s
  | .diagRunDestructive mail failures => Sys2Proof.Machine.execDiagRunDestructive mail failures s
  | .diagRunReadCheck mail => Sys2Proof.Machine.execDiagRunReadCheck mail s
  | .patternPackInstall mail => Sys2Proof.Machine.execPatternPackInstall mail s
  | .patternPackRunNow mail failures => Sys2Proof.Machine.execPatternPackRunNow mail failures s
  | .patternPackRemove mail => Sys2Proof.Machine.execPatternPackRemove mail s
  | .fwUpdate mail => Sys2Proof.Machine.execFwUpdate mail s
  | .fwWrite mail => Sys2Proof.Machine.execFwWrite mail s
  | .fwCommit mail => Sys2Proof.Machine.execFwCommit mail s
  | .fwAccept mail => Sys2Proof.Machine.execFwAccept mail s
  | .testChallenge mail => Sys2Proof.Machine.execTestChallenge mail s
  | .testUnlock mail => Sys2Proof.Machine.execTestUnlock mail s
  | .setEndpointId eid newEid => Sys2Proof.Machine.execSetEndpointId eid newEid s
  | .getEndpointId eid => Sys2Proof.Machine.execGetEndpointId eid s
  | .getMctpVersionSupport eid msgType => Sys2Proof.Machine.execGetMctpVersionSupport eid msgType s
  | .getMessageTypeSupport eid => Sys2Proof.Machine.execGetMessageTypeSupport eid s
  | .getVendorDefinedMessageSupport eid selector => Sys2Proof.Machine.execGetVendorDefinedMessageSupport eid selector s
  | .wbReadoutRecord mail => Sys2Proof.Machine.execWbReadoutRecord mail s
  | .wbReadoutIdentification mail => Sys2Proof.Machine.execWbReadoutIdentification mail s
  | .wbReadoutCertificate mail => Sys2Proof.Machine.execWbReadoutCertificate mail s
  | .wbReadoutAuditEntry mail => Sys2Proof.Machine.execWbReadoutAuditEntry mail s
  | .wbReadoutChallenge mail => Sys2Proof.Machine.execWbReadoutChallenge mail s
  | .wbUtc mail => Sys2Proof.Machine.execWbUtc mail s
  | .wbCalibrate mail => Sys2Proof.Machine.execWbCalibrate mail s
  | .weighbridgeSample counts => Sys2Proof.Machine.execWeighbridgeSample counts s
  | .weighbridgeCheckpoint => Sys2Proof.Machine.execWeighbridgeCheckpoint s
  | .intervalClose => Sys2Proof.Machine.execIntervalClose s
  | .recordSign => Sys2Proof.Machine.execRecordSign s
  | .weighbridgeWatchdog => Sys2Proof.Machine.execWeighbridgeWatchdog s
  | .tapReset => Sys2Proof.Machine.execTapReset s
  | .bypass die => Sys2Proof.Machine.execBypass die s
  | .idcode die => Sys2Proof.Machine.execIdcode die s
  | .samplePreload die => Sys2Proof.Machine.execSamplePreload die s
  | .extest die => Sys2Proof.Machine.execExtest die s
  | .clamp die => Sys2Proof.Machine.execClamp die s
  | .highz die => Sys2Proof.Machine.execHighz die s
  | .intest1500 die => Sys2Proof.Machine.execIntest1500 die s
  | .stack1500 die => Sys2Proof.Machine.execStack1500 die s
  | .tqPwrgoodFalling => Sys2Proof.Machine.execTqPwrgoodFalling s
  | .processorRestartEnd proc => Sys2Proof.Machine.execProcessorRestartEnd proc s
  | .failedFlit port flit => Sys2Proof.Machine.execFailedFlit port flit s
  | .droppedMessage src via raw => Sys2Proof.Machine.execDroppedMessage src via raw s
  | .droppedFrame cause => Sys2Proof.Machine.execDroppedFrame cause s

end Sys2Proof.Machine
end

