-- ==== Sys2Proof/Safety.lean ====
section
/-! DEFINITION. The terms that statements are written in: what counts as a safe state, when a step row issues, and frames. -/
namespace Sys2Proof.Safety
open Sys2Proof.Machine

/-- The invariant of every state: what memory lists is in its canonical form. -/
abbrev memoryCanonical (s : State) : Prop := s.mem.bytes.wf = true

/-- A command stops the block when it answers no next state. No row of the table does. -/
def goesOn (o : Host.Outcome State Fault Refusal) : Prop := ∃ t, o = .next t

/-! ### Step rows -/

/-- A context's ready step is of a class and an operation: what it finds at issue is e (03 R71, R73, R74). -/
abbrev issues (s : State) (t c : Nat) (e : Env) (cls op : Nat) : Prop :=
  envAt s t c .ready = some e ∧ stepClass e.word = cls ∧ stepOp e.word = op

/-- A row answers a next state in which the step that e describes has completed with a status and flags: the context goes on
from the state u that the step's effect leaves (03 R77, R80, R81). -/
def completes (i : Instr) (s : State) (e : Env) (u : State) (st : Status) (flags : List (Nat × Bool)) : Prop :=
  exec i s = .next (endStep e.tile e.ctx e.word (.done u st flags))

/-! ### Frames -/

/-- An address lies in one of some runs (address, length). -/
abbrev inRuns (rs : List (Nat × Nat)) (a : Nat) : Prop := ∃ r ∈ rs, r.1 ≤ a ∧ a < r.1 + r.2

/-- Memory goes from s to u with nothing written outside the addresses stored to: beside those bytes only lofts, invalidation
logs and channel counters may change. -/
def memFrame (s u : State) (stored : Nat → Prop) : Prop :=
  u.mem = { s.mem with
    bytes := { s.mem.bytes with cells := u.mem.bytes.cells }, lofts := u.mem.lofts, channels := u.mem.channels
    logs := u.mem.logs } ∧
  ∀ a, ¬ stored a → u.mem.bytes.read a = s.mem.bytes.read a

/-- A step's effect changes no register but its own context's digest, and no byte outside some runs. -/
def storesOnly (s u : State) (e : Env) (runs : List (Nat × Nat)) : Prop :=
  u = { s with tiles := { s.tiles with ctxs := u.tiles.ctxs }, mem := u.mem } ∧
  (∀ i, i ≠ 16 * e.tile + e.ctx → SMap.get {} u.tiles.ctxs i = SMap.get {} s.tiles.ctxs i) ∧
  ctxOf u e.tile e.ctx = { ctxOf s e.tile e.ctx with digest := (ctxOf u e.tile e.ctx).digest } ∧
  memFrame s u (inRuns runs)

/-- Every word of memory reads well: no stored bit differs from its codeword (09 R235). -/
abbrev memorySound (s : State) : Prop := s.mem.flips = []

/-- Runs that lie below the register windows: stack memory and scratchpads (01 R27). -/
abbrev runsInMemory (rs : List (Nat × Nat)) : Prop := ∀ r ∈ rs, r.1 < windowBase

/-- No access is refused with E_BUSY: no package trip, no Critical stack, no quarter in reset (08 R233; 13 R366; 15 R411). -/
abbrev noBusy (s : State) : Prop :=
  s.power.tripped = false ∧ s.mem.thermal = [] ∧ ∀ q, q < 4 → quarterHeld s q = false

/-- No flit waits in a lane's receive buffer (10 R267; 11 R309). -/
abbrev quietLanes (s : State) : Prop := ∀ k, (portOf s k).rx = []

/-- A port that is up accepts a flit with a sequence number, and has nothing of its own to send (10 R265 to R269). -/
abbrev accepts (s : State) (k : Nat) (f : Flit) : Prop :=
  k < 6 ∧ (portOf s k).state = .up ∧ flitOk f = true ∧ flitLink f = false ∧ f.seq = (portOf s k).rxSeq ∧
  noSlot (portOf s k) f = false ∧ (portOf s k).waiting = [] ∧ (portOf s k).late = none ∧
  quietLanes s

/-- Elements whose codes share no bit (03 R86). -/
abbrev separate (d : Desc) (ps : List Pos) : Prop :=
  ps.Pairwise fun p q => d.bitAddr p + d.fmt.width ≤ d.bitAddr q ∨ d.bitAddr q + d.fmt.width ≤ d.bitAddr p

end Sys2Proof.Safety
end

