-- ==== Sys2Proof/Certificates/Slice0/Obligations.lean ====
section
/-! DEFINITION. The statements for the provers. -/

section
open Sys2Proof Sys2Proof.Machine Sys2Proof.Safety

/-! ### The block -/

/-- A step takes the command at the front of the queue and runs it on the state with the rest; an empty queue idles (log 20). -/
def Obligations.StepRunsFrontCommand : Prop :=
  ∀ (s : State) (c : Instr) (rest : List Instr),
    (s.pending = c :: rest → step s = exec c { s with pending := rest }) ∧ (s.pending = [] → step s = .next s)

/-- At reset memory is in its canonical form, no command waits, no field exists, every context is unowned, every step index unwritten,
every barrier unit and signal word free, every check-value unit set for CRC-32C, and the cap 4,800 W (03 R73, R449; 09 R252; 11
R289, R290; 13 R352); that the service is off and every quarter out of service is the model's choice (log 24), as is the empty
queue (log 20). -/
def Obligations.ResetLeavesRegisters : Prop :=
  memoryCanonical State.reset ∧ State.reset.pending = [] ∧ State.reset.power.cap = 4800 ∧ State.reset.mgmt.service = .off ∧
  (∀ f, fieldOf State.reset f = none) ∧
  (∀ t c, (ctxOf State.reset t c).state = .unowned ∧ (ctxOf State.reset t c).owner = 0xFF) ∧
  (∀ t i, stepEntry State.reset t i = none) ∧
  (∀ q k, (barrierOf State.reset q k).field = 0xFF ∧ (barrierOf State.reset q k).allocated = false) ∧
  (∀ q w, (attrOf State.reset q w).field = 0xFF ∧ signalOf State.reset q w = 0) ∧
  (∀ q u, (cvuOf State.reset q u).params = crc32c ∧ (cvuOf State.reset q u).value = 0xFFFFFFFF) ∧
  (∀ q, (quarterOf State.reset q).inService = false)

/-- Every step keeps memory in its canonical form. -/
def Obligations.StepKeepsMemoryCanonical : Prop :=
  ∀ s t : State, memoryCanonical s → step s = .next t → memoryCanonical t

/-! ### Flow, CTRL and PRED (03 R77 to R81, R449) -/

/-- Where a step that completes leaves its context (03 R77, R449): at NEXT; at a loop end that is not the last pass at NEXT, at
the last pass at the step's own index plus one with the counter reloaded; Ready there, or Halted with E_RANGE where no template
of its field wrote. The status and ERR are written first (03 R80, R81). -/
def Obligations.CompletedStepFlows : Prop :=
  ∀ (u : State) (e : Env) (st : Status) (fl : List (Nat × Bool)) (x : Ctx) (k left next : Nat),
    x = finishCtx (ctxOf u e.tile e.ctx) st fl →
    k = stepLoopNo e.word →
    left = (if SMap.get 0 x.loopCur k = 0 then 1 else (SMap.get 0 x.loopCur k).toNat) - 1 →
    next = (if stepLoopEnd e.word ∧ left = 0 then x.step + 1 else stepNext e.word) →
    let t := endStep e.tile e.ctx e.word (.done u st fl)
    let y := ctxOf t e.tile e.ctx
    y.step = next ∧
    (stepLoopEnd e.word = false → y.loopCur = x.loopCur) ∧
    (stepLoopEnd e.word = true → (SMap.get 0 y.loopCur k).toNat = if left = 0 then (SMap.get 0 x.loopStart k).toNat else left) ∧
    (∀ j, j ≠ k → SMap.get 0 y.loopCur j = SMap.get 0 x.loopCur j) ∧
    y.loopStart = x.loopStart ∧
    ((∃ n, stepEntry u e.tile next = some n ∧ n.field = x.owner) →
      y.state = .ready ∧ y.flags = x.flags ∧ y.lastStatus = x.lastStatus ∧ t.mgmt = u.mgmt) ∧
    ((¬ ∃ n, stepEntry u e.tile next = some n ∧ n.field = x.owner) →
      y.state = .halted ∧ y.lastStatus = .range ∧ bit y.flags.toNat flagErr = true ∧ y.item = none ∧
      let z := setCtx u e.tile e.ctx { y with item := x.item, check := x.check, digest := x.digest }
      t.mgmt = (logFault z { tileFault z 0x0B .range e.tile e.ctx x.owner with detail := 0 }).mgmt)

/-- NOP completes with OK and does nothing else; SETLOOP sets a counter's start and current value; HALT halts its context, whose STEP stays (the model's choice, log
25); in each
no other register of the tile's contexts, and nothing outside them but the tile's step counter, changes (03 R78, R106).
STEP_TABLE_REFETCH rewrites one word of a tile's step table from the quarter's copy and changes nothing else (09 R239). -/
def Obligations.CtrlStepsComplete : Prop :=
  ∀ (s : State) (t c : Nat) (e : Env),
    (issues s t c e 0x00 0 → operandsZero e.word = true → completes (.nop t c) s e (issued s t c) .ok []) ∧
    (issues s t c e 0x00 1 → bits (stepHi e.word) 13 2 = 0 → bits e.word.toNat 63 16 = 0 → stepUnit e.word = 0 →
      stepLo e.word ≠ 0 →
      ∃ x : Ctx, completes (.setloop t c) s e (setCtx (issued s t c) t c x) .ok [] ∧
        (∀ k, SMap.get 0 x.loopStart k =
            if k = stepHi e.word then BitVec.ofNat 32 (stepLo e.word) else SMap.get 0 (ctxOf s t c).loopStart k) ∧
        (∀ k, SMap.get 0 x.loopCur k =
            if k = stepHi e.word then BitVec.ofNat 32 (stepLo e.word) else SMap.get 0 (ctxOf s t c).loopCur k) ∧
        x = { ctxOf (issued s t c) t c with loopStart := x.loopStart, loopCur := x.loopCur }) ∧
    (issues s t c e 0x00 3 → operandsZero e.word = true →
      ∃ u, exec (.halt t c) s = .next u ∧ (ctxOf u t c).state = .halted ∧ (ctxOf u t c).step = (ctxOf s t c).step ∧
        u = setCtx (issued s t c) t c (ctxOf u t c)) ∧
    (∀ i, i < 4096 → ∃ u, exec (.stepTableRefetch t i) s = .next u ∧
      stepEntry u t i = SMap.get none s.tiles.tableCopy (4096 * t + i) ∧
      (∀ j, j ≠ 4096 * t + i → SMap.get none u.tiles.table j = SMap.get none s.tiles.table j) ∧
      u = { s with tiles := { s.tiles with table := u.tiles.table } })

/-- A PRED step goes to its target when the flag it names has the sense it names, otherwise to NEXT, and changes no flag (03
R79, R80). -/
def Obligations.PredBranchesOnFlag : Prop :=
  ∀ (s : State) (t c : Nat) (e : Env) (n : StepEntry),
    envAt s t c .ready = some e → stepClass e.word = 0x01 → bits (stepOp e.word) 6 4 = 0 → stepLo e.word < 4096 →
    stepHi e.word = 0 → stepUnit e.word = 0 → bits e.word.toNat 63 16 = 0 →
    let flag := (ctxOf s t c).flags.toNat.testBit (stepOp e.word % 16)
    let next := if flag = (!bit (stepOp e.word) 7) then stepLo e.word else stepNext e.word
    stepEntry s t next = some n → n.field = e.field →
    exec (.pred t c) s = .next (setCtx (issued s t c) t c { ctxOf s t c with step := next, state := .ready, waiting := none })

/-- ITEM_END with no repeat check undecided ends the item: the context holds no item and flow goes to the return index; an item
with DONE_EN whose word its field owns adds 1 to that word and pulses its wire; an item that ends with ERR makes a record of
class 0x0A (03 R95; 15 R408). -/
def Obligations.ItemEndReturns : Prop :=
  ∀ (s : State) (t c : Nat) (e : Env) (i : BitVec 512),
    issues s t c e 0x00 2 → bits e.word.toNat 113 16 = 0 → e.item = some i → (ctxOf s t c).check = none →
    itemCut s e = false → quarterHeld s (itemDoneQuarter i) = false →
    (itemDoneEn i = true → (attrOf s (itemDoneQuarter i) (itemDoneWord i)).field = e.field ∧ e.field ≠ 0xFF) →
    ∃ u, exec (.itemEnd t c) s = .next (endStep t c e.word (.jump u .ok [] (ctxOf s t c).ret)) ∧
      (ctxOf u t c).item = none ∧
      (ctxOf u t c).flags = (ctxOf s t c).flags ∧
      (∀ q w, signalOf u q w = signalOf s q w +
        if itemDoneEn i = true ∧ 4096 * q + w = 4096 * itemDoneQuarter i + itemDoneWord i then 1 else 0) ∧
      (∀ wire, SMap.get 0 u.sync.sent wire = SMap.get 0 s.sync.sent wire +
        if itemDoneEn i = true ∧ wire = 64 * itemDoneQuarter i + (attrOf s (itemDoneQuarter i) (itemDoneWord i)).wake then 1 else 0) ∧
      u.mem = s.mem ∧
      (bit (ctxOf s t c).flags.toNat flagErr = false → u.mgmt = s.mgmt) ∧
      (bit (ctxOf s t c).flags.toNat flagErr = true →
        u.mgmt = (logFault (issued s t c) (tileFault (issued s t c) 0x0A (ctxOf s t c).lastStatus t c e.field)).mgmt)

/-- STEP_UNBLOCK takes a Blocked step up again: it acts as when it issued, and is not counted again; it stays Blocked while what
it waits for is missing. A Blocked FENCE that reaches every base die again fences and completes with OK (01 R19; 03 R71, R73,
R106; 08 R225). -/
def Obligations.UnblockedStepActs : Prop :=
  ∀ (s : State) (t c : Nat) (e : Env) (act : State → Env → StepEnd),
    envAt s t c .blocked = some e → blockedAct (stepClass e.word) (stepOp e.word) = some act →
    let r := setCtx s t c { ctxOf s t c with state := .running }
    exec (.stepUnblock t c) s = .next (endStep t c e.word (act r e)) ∧
    (∀ u, act r e = .block u →
      exec (.stepUnblock t c) s = .next (setCtx u t c { ctxOf u t c with state := .blocked })) ∧
    (∀ u st fl, act r e = .done u st fl → completes (.stepUnblock t c) s e u st fl) ∧
    (stepClass e.word = 0x06 → stepOp e.word = 2 → bits e.word.toNat 113 16 = 0 → fenceReaches s e.quarter = true →
      completes (.stepUnblock t c) s e (fence r e.field) .ok []) ∧
    r.tiles.counters = s.tiles.counters

/-! ### Synchronisation (03 R82, R83; 11 R281 to R295) -/

/-- ARRIVE at a unit of the step's field: the first arrival of a context sets its ARRIVED_BIT and counts in ARRIVED, the second
its EARLY_BIT and EARLY, a third changes neither and completes with E_EARLY_TWICE; at the arrival that fills the unit it
releases: ROUND and RELEASES count one, the early arrivals become the next round's, and the unit's wake wire pulses (11 R285,
R287, R288). -/
def Obligations.ArriveCountsAndReleases : Prop :=
  ∀ (s : State) (t c : Nat) (e : Env),
    issues s t c e 0x02 1 → syncStatus (issued s t c) e true false false = .ok → syncCut (issued s t c) e = false →
    let q := syncQuarter e.word
    let k := syncUnit e.word
    let b := barrierOf s q k
    let v := b.bitsOf t c
    v < 8 →
    ∃ u, completes (.arrive t c) s e u (if v % 4 = 3 then .earlyTwice else .ok) [] ∧
      let b' := barrierOf u q k
      u = { issued s t c with sync := u.sync } ∧
      (∀ j, j ≠ 64 * q + k → SMap.get {} u.sync.barriers j = SMap.get {} s.sync.barriers j) ∧
      u.sync.words = s.sync.words ∧ u.sync.served = s.sync.served ∧
      (v % 2 = 0 → (b.count = 0 ∨ b.arrived + 1 < b.count) →
        b'.arrived = b.arrived + 1 ∧ b'.bitsOf t c = v % 4 + 5 ∧ b'.round = b.round ∧ u.sync.sent = s.sync.sent) ∧
      (v % 2 = 0 → 1 ≤ b.count → b.count ≤ b.arrived + 1 → b.early < b.count →
        b'.round = b.round + 1 ∧ b'.releases = b.releases + 1 ∧ b'.arrived = b.early ∧ b'.early = 0 ∧
        (∀ w, SMap.get 0 u.sync.sent w = SMap.get 0 s.sync.sent w + if w = 64 * q + b.wake then 1 else 0)) ∧
      (v % 4 = 1 → (b.count = 0 ∨ b.arrived < b.count) →
        b'.early = b.early + 1 ∧ b'.arrived = b.arrived ∧ b'.bitsOf t c = v % 4 + 6 ∧ b'.round = b.round) ∧
      (v % 4 = 3 → (b.count = 0 ∨ b.arrived < b.count) →
        b'.arrived = b.arrived ∧ b'.early = b.early ∧ b'.earlyTwice = satAdd 32 b.earlyTwice 1 ∧ b'.round = b.round)

/-- WAIT_SIGNAL completes with OK when the word has reached the threshold as a signed difference, and sleeps otherwise (03 R83;
11 R283). WAIT and ARRIVE_WAIT: a context whose arrival counts for the current round sleeps for its release; one with an early arrival
sleeps for the release after it; one that is not waited for completes with OK and clears TIMEOUT and ABANDONED (11 R283, R284,
R286). ARRIVE_WAIT arrives first. -/
def Obligations.SyncWaitsSleep : Prop :=
  ∀ (s : State) (t c : Nat) (e : Env),
    (issues s t c e 0x02 6 → syncStatus (issued s t c) e false true true = .ok → syncCut (issued s t c) e = false →
      let q := syncQuarter e.word
      let j := 4096 * q + syncWord e.word
      (0 ≤ (SMap.get 0 s.sync.words j - syncThreshold e.word).toInt →
        completes (.waitSignal t c) s e (issued s t c) .ok [(flagTimeout, false), (flagAbandoned, false)]) ∧
      ((SMap.get 0 s.sync.words j - syncThreshold e.word).toInt < 0 →
        exec (.waitSignal t c) s = .next (setCtx (issued s t c) t c { ctxOf (issued s t c) t c with
          state := .sleeping
          waiting := some ⟨.signal j (syncThreshold e.word), 64 * q + syncWire e.word, s.power.sclk, syncTimeout e.word⟩ }))) ∧
    (syncStatus (issued s t c) e true false true = .ok → syncCut (issued s t c) e = false →
    let q := syncQuarter e.word
    let k := syncUnit e.word
    let asleep := fun (u : State) (r : BitVec 32) => setCtx u t c { ctxOf u t c with
      state := .sleeping
      waiting := some ⟨.barrier (64 * q + k) r, 64 * q + syncWire e.word, s.power.sclk, syncTimeout e.word⟩ }
    (issues s t c e 0x02 2 →
      let b := barrierOf s q k
      let v := b.bitsOf t c
      (v / 2 % 2 = 1 → exec (.wait t c) s = .next (asleep (issued s t c) (b.round + 1))) ∧
      (v % 4 = 1 → exec (.wait t c) s = .next (asleep (issued s t c) b.round)) ∧
      (v % 4 = 0 → completes (.wait t c) s e (issued s t c) .ok [(flagTimeout, false), (flagAbandoned, false)])) ∧
    (issues s t c e 0x02 3 →
      let u := (arriveAt (issued s t c) e).1
      let b := barrierOf u q k
      let v := b.bitsOf t c
      ((barrierOf s q k).bitsOf t c % 4 ≠ 3 →
        (v / 2 % 2 = 1 → exec (.arriveWait t c) s = .next (asleep u (b.round + 1))) ∧
        (v % 4 = 1 → exec (.arriveWait t c) s = .next (asleep u b.round)) ∧
        (v % 4 = 0 → completes (.arriveWait t c) s e u .ok [(flagTimeout, false), (flagAbandoned, false)])) ∧
      ((barrierOf s q k).bitsOf t c % 4 = 3 →
        completes (.arriveWait t c) s e u .earlyTwice [(flagTimeout, false), (flagAbandoned, false)])))

/-- SIGNAL and SIGNAL_FENCED add their increment to the word and pulse its wire, and change no other word; the fenced form
fences first, and neither writes a byte (11 R290 to R292; 08 R225). -/
def Obligations.SignalsAddAndPulse : Prop :=
  ∀ (s : State) (t c : Nat) (e : Env),
    e.field ≠ 0xFF → syncStatus (issued s t c) e false true false = .ok → syncCut (issued s t c) e = false →
    let q := syncQuarter e.word
    let w := syncWord e.word
    let added := fun (u : State) =>
      (∀ j, SMap.get 0 u.sync.words j = SMap.get 0 s.sync.words j + if j = 4096 * q + w then syncThreshold e.word else 0) ∧
      (∀ j, SMap.get 0 u.sync.sent j = SMap.get 0 s.sync.sent j + if j = 64 * q + (attrOf s q w).wake then 1 else 0) ∧
      u.sync.barriers = s.sync.barriers ∧ u.mem.bytes = s.mem.bytes ∧ u.mgmt = s.mgmt ∧ u.tiles = (issued s t c).tiles
    (issues s t c e 0x02 4 → ∃ u, completes (.signal t c) s e u .ok [] ∧ added u ∧ u.mem = s.mem) ∧
    (issues s t c e 0x02 5 → fenceReaches s e.quarter = true →
      ∃ u, completes (.signalFenced t c) s e u .ok [] ∧ added u ∧ u.mem = (fence (issued s t c) e.field).mem)

/-- A wake pulse is served by a tile whose clock runs: it takes the pulses latched, and every context of the tile that sleeps on
the wire and whose condition does not hold sleeps on, with its timeout; one whose condition holds goes on (03 R83; 11 R281,
R282). A wait whose timeout has expired tests its condition once more: the step completes with OK when it holds and with
E_TIMEOUT, setting TIMEOUT, when it does not (03 R80, R83). -/
def Obligations.SleepersWakeOrTimeOut : Prop :=
  (∀ (s : State) (q w t : Nat), q < 4 → w < 64 → t < 2304 →
    let wire := 64 * q + w
    let i := 2304 * wire + t
    SMap.get 0 s.sync.served i < SMap.get 0 s.sync.sent wire → tileRuns s t = true → ringReaches s q (tileQuarter t) = true →
    ∃ u, exec (.wakePulse q w t) s = .next u ∧
      SMap.get 0 u.sync.served i = SMap.get 0 s.sync.sent wire ∧ u.sync.sent = s.sync.sent ∧ u.sync.words = s.sync.words ∧
      u.sync.barriers = s.sync.barriers ∧ u.mem = s.mem ∧
      (∀ c x, c < 16 → ctxOf s t c = x →
        (x.state ≠ .sleeping ∨ x.waiting = none ∨ (∃ y, x.waiting = some y ∧ (y.wire ≠ wire ∨ waitHolds s y.cond = false))) →
        ctxOf u t c = x) ∧
      (∀ c x y n, c < 16 → ctxOf s t c = x → x.state = .sleeping → x.waiting = some y → y.wire = wire →
        waitHolds s y.cond = true → stepEntry s t x.step = some n →
        (ctxOf u t c).state ≠ .sleeping ∧ bit (ctxOf u t c).flags.toNat flagTimeout = false)) ∧
  (∀ (s : State) (t c : Nat) (y : Waiting) (n : StepEntry),
    (ctxOf s t c).state = .sleeping → (ctxOf s t c).waiting = some y → (∀ g, y.cond ≠ .coll g) → tileRuns s t = true →
    y.start + y.timeout ≤ s.power.sclk → condReaches s t y.cond = true → stepEntry s t (ctxOf s t c).step = some n →
    (waitHolds s y.cond = true → exec (.waitTimeout t c) s =
      .next (endStep t c n.word (.done (countSleep s t c) .ok [(flagTimeout, false), (flagAbandoned, false)]))) ∧
    (waitHolds s y.cond = false → exec (.waitTimeout t c) s =
      .next (endStep t c n.word (.done (countSleep s t c) .timeout [(flagTimeout, true), (flagAbandoned, false)]))))

/-! ### Queues (03 R92 to R99) -/

/-- ENQUEUE of n items that fit copies them behind the tail of the target's queue, clears FULL and stores nothing else; items that
do not fit set FULL and change no queue (03 R92, R93). -/
def enqueueAppendsItems : Prop :=
  ∀ (s : State) (t c : Nat) (e : Env),
    issues s t c e 0x03 1 → memorySound s →
    let r := readSlots (issued s t c) e (issueSlots (issued s t c) e [stepA e.word] [] [])
    let n := stepHi e.word
    let g := enqueueTarget e
    let q := queueOf s g e.field
    let base := (operand r e (stepA e.word) .zero).d.base
    let items := listItems r e (stepA e.word) n
    Status.lowest (enqueueConds r e) = .ok → runsCut r e [(base, 64 * n), (padAddr g 0, 1)] = false →
    Status.lowest (itemConds items false) = .ok →
    let slots := (List.range n).map fun i => (queueSlot e.fd g (q.head + q.count + i), 64)
    (q.count + n ≤ 256 → runsInMemory slots →
      ∃ u m, completes (.enqueue t c) s e u .ok [(flagFull, false)] ∧
        u = setQueue m g e.field { q with count := q.count + n } ∧
        storesOnly (issued s t c) m e slots ∧
        (∀ i, i < n → itemAt u none (queueSlot e.fd g (q.head + q.count + i)) = items.getD i 0)) ∧
    (256 < q.count + n →
      ∃ u, completes (.enqueue t c) s e u .ok [(flagFull, true)] ∧ storesOnly (issued s t c) u e [])

/-- TAKE with an item in the own queue takes its head: the queue loses one item, OWN_ITEMS counts one, the context holds the item
with its return index, clears ERR and EMPTY and goes on at ENTRY; with an empty queue it asks for gleaning (03 R94, R97, R106). -/
def takeFromOwnQueue : Prop :=
  ∀ (s : State) (t c : Nat) (e : Env),
    issues s t c e 0x03 2 → memorySound s → stepUnit e.word = 0 → stepA e.word = 0xFFFF → e.fd.repeatDenom = 0 →
    let q := queueOf s t e.field
    let w := latch (issued s t c) e []
    (q.count = 0 → exec (.take t c) s = .next (setCtx w t c { ctxOf w t c with gleaning := true })) ∧
    (q.count ≠ 0 →
      ∃ u x item, exec (.take t c) s = .next (goTo u t c x (itemEntry item)) ∧
        item = itemAt s none (queueSlot e.fd t q.head) ∧
        x.item = some item ∧ x.ret = (ctxOf s t c).step ∧ x.check = none ∧ x.owner = e.field ∧
        x.flags = setFlags (ctxOf s t c).flags [(flagErr, false), (flagEmpty, false)] ∧
        queueOf u t e.field = ⟨(q.head + 1) % 256, q.count - 1⟩ ∧
        (SMap.get {} u.tiles.counters t).own = wrapAdd 64 (SMap.get {} s.tiles.counters t).own 1 ∧
        u.mem.bytes = s.mem.bytes ∧ u.mgmt = s.mgmt ∧ u.sync = s.sync)

/-- GLEAN_ANSWER takes the tail item of the first tile in the search order that holds an open item: that tile's queue loses it,
GLEANED_OUT and GLEANED_IN count, and the asking context holds the item and goes on at ENTRY; with none, and no pool named, EMPTY
is set and flow goes on at NEXT (03 R94, R96, R97). -/
def gleanAnswerTakesTail : Prop :=
  ∀ (s : State) (t c : Nat) (e : Env),
    envAt s t c .running = some e → (ctxOf s t c).gleaning = true → memorySound s → e.fd.repeatDenom = 0 →
    (∀ g, (searchOrder t).find? (openToGlean s e.fd e.field) = some g → (putBackOf s g e.field).isEmpty = true → g ≠ t →
      let q := queueOf s g e.field
      ∃ u x item, exec (.gleanAnswer t c) s = .next (goTo u t c x (itemEntry item)) ∧
        item = itemAt s none (queueSlot e.fd g q.tailSlot) ∧ x.item = some item ∧ x.ret = (ctxOf s t c).step ∧
        x.gleaning = false ∧ queueOf u g e.field = { q with count := q.count - 1 } ∧
        (SMap.get {} u.tiles.counters g).gleanedOut = wrapAdd 64 (SMap.get {} s.tiles.counters g).gleanedOut 1 ∧
        (SMap.get {} u.tiles.counters t).gleanedIn = wrapAdd 64 (SMap.get {} s.tiles.counters t).gleanedIn 1 ∧
        u.mem.bytes = s.mem.bytes) ∧
    ((searchOrder t).find? (openToGlean s e.fd e.field) = none → stepA e.word = 0xFFFF →
      completes (.gleanAnswer t c) s e (setCtx s t c { ctxOf s t c with gleaning := false }) .ok [(flagEmpty, true)])

/-- POOL_PUT of n items that fit writes each to the pool's next slots, moves TAIL and the tail slot by n and clears FULL; items
that do not fit set FULL and store nothing (03 R93, R98). -/
def poolPutAppends : Prop :=
  ∀ (s : State) (t c : Nat) (e : Env),
    issues s t c e 0x03 3 → memorySound s → stepUnit e.word = 0 → 1 ≤ stepCount e.word → stepCount e.word ≤ 65536 →
    let r := readSlots (issued s t c) e (issueSlots (issued s t c) e [stepA e.word, stepB e.word] [] [])
    let n := stepCount e.word
    let pool := (operand r e (stepA e.word) .zero).d
    let list := (operand r e (stepB e.word) .zero).d
    let p := PoolBlock.parse (seeBytes r none pool.base 64)
    let slots := (List.range n).map fun i => pool.base + 64 + 64 * ((p.tailSlot + i) % pool.ext.i0)
    let items := listItems r e (stepB e.word) n
    Status.lowest (poolConds r e (stepA e.word) ++ listConds r e (stepB e.word) n) = .ok → runBusy r pool.base 64 = false →
    runsCut r e ((list.base, 64 * n) :: (pool.base, 64) :: slots.map fun a => (a, 64)) = false →
    Status.lowest (itemConds items true) = .ok → p.status pool.ext.i0 = .ok →
    (p.held + n ≤ pool.ext.i0 → (slots.any fun a => runBusy (runAccs r e
        [.rd list.base (64 * n) true false, .rd pool.base 64 false false]).1 a 64) = false →
      ∃ u, completes (.poolPut t c) s e u .ok [(flagFull, false)] ∧
        storesOnly (issued s t c) u e ((pool.base, 64) :: slots.map fun a => (a, 64)) ∧
        PoolBlock.parse (seeBytes u none pool.base 64) =
          { p with tail := (p.tail + n) % 2 ^ 32, tailSlot := (p.tailSlot + n) % pool.ext.i0 }) ∧
    (pool.ext.i0 < p.held + n →
      ∃ u, completes (.poolPut t c) s e u .ok [(flagFull, true)] ∧ storesOnly (issued s t c) u e [])

/-- Items enter a queue by ENQUEUE and a pool by POOL_PUT, behind its tail (03 R92, R93, R98). -/
def Obligations.ItemsEnterQueuesAndPools : Prop := enqueueAppendsItems ∧ poolPutAppends

/-- Items leave a queue at its head by TAKE and at its tail by gleaning (03 R94, R96, R97, R106). -/
def Obligations.ItemsLeaveQueues : Prop := takeFromOwnQueue ∧ gleanAnswerTakesTail

/-! ### The matrix array (05, 06) -/

/-- The ARRAY rows, their operation and OP code (05 R137). -/
def arrayRows (t c : Nat) (up : Option ArrayUpset) : List (Instr × ArrayOp × Nat) :=
  [(.matmul t c up, .matmul, 1), (.split3 t c up, .split3, 2), (.cplx3 t c up, .cplx3, 3), (.cplx4 t c up, .cplx4, 4),
    (.wide8 t c up, .wide8, 5), (.matmulStall t c up, .matmul, 6)]

/-- The state in which an ARRAY step's conditions are judged: its descriptors and rounding key read. -/
def arrayIssue (s : State) (e : Env) (op : ArrayOp) : State :=
  readKey (readSlots s e (arraySlots s e op)) e

/-- An ARRAY step that passes its checks runs: it completes with OK, with E_SCALE_EXHAUSTED and SCALE set, or with E_RESERVED when
a statistics entry it updates is malformed; it counts its multiply-accumulates, uses its regions, whose accumulators hold its
rows, and stores only to D, D's scales and its statistics. With M or N zero it completes with OK and does nothing. A parity error
in its columns ends it with E_UNCORRECTABLE, and it stores nowhere else (05 R132, R136, R137, R141, R145, R149, R157; 06 R167, R177;
16 R422). -/
def Obligations.ArrayStepsComplete : Prop :=
  ∀ (s : State) (t c : Nat) (up : Option ArrayUpset) (e : Env) (i : Instr) (op : ArrayOp) (k : Nat),
    (i, op, k) ∈ arrayRows t c up → issues s t c e 0x04 k → memorySound s →
    let r := arrayIssue (issued s t c) e op
    let sh := arrayShape e.word
    let x := arrayMats r e op
    (∀ o ∈ x.ds, 1 ≤ (recipeOf e.fd o.d.kind).history) →
    Status.lowest (arrayConds r e op) = .ok →
    ((sh.m = 0 ∨ sh.n = 0) → completes i s e r .ok [(flagScale, false)] ∧ r.mem.bytes = s.mem.bytes) ∧
    (sh.m ≠ 0 → sh.n ≠ 0 → runsCut r e (arrayFar e x sh) = false → (∃ p, stepUpset e up = some p) →
      ∃ u, completes i s e u .uncorrectable [(flagScale, false)] ∧ memFrame s u (inRuns (arrayFar e x sh))) ∧
    (sh.m ≠ 0 → sh.n ≠ 0 → runsCut r e (arrayFar e x sh) = false → stepUpset e up = none →
      ∃ u st, completes i s e u st [(flagScale, st == .scaleExhausted)] ∧ (st = .ok ∨ st = .scaleExhausted ∨ st = .reserved) ∧
        u = { issued s t c with
          tiles := { (issued s t c).tiles with ctxs := u.tiles.ctxs, regions := u.tiles.regions, halfMode := u.tiles.halfMode }
          mem := u.mem, wb := { s.wb with accum := { s.wb.accum with work := u.wb.accum.work } } } ∧
        (∀ j, j ≠ 16 * t + c → SMap.get {} u.tiles.ctxs j = SMap.get {} s.tiles.ctxs j) ∧
        ctxOf u t c = { ctxOf (issued s t c) t c with digest := (ctxOf u t c).digest } ∧
        (∀ g ∈ unitRegions (stepUnit e.word),
          let b := SMap.get {} s.tiles.regions (2 * t + g)
          let y := SMap.get {} u.tiles.regions (2 * t + g)
          (sh.k ≠ 0 → y.stall = false ∧ y.two = (chunkLen op x == 256) ∧ y.ramp = 0) ∧ (sh.k = 0 → y = { b with acc := y.acc }) ∧
          (∀ m, m < sh.m → y.acc.getD m [] =
            regionCols (stepUnit e.word) g ((List.range sh.n).map fun n => (arrayAcc r e.quarter op x sh m n).1))) ∧
        (∀ w, SMap.get 0 u.wb.accum.work w = SMap.get 0 s.wb.accum.work w +
          if w = workClass (chunkLen op x) then sh.m * sh.n * sh.k * (op.passes ((x.b 0).d.fmt == .int4)).length else 0) ∧
        memFrame s u (inRuns (arrayFar e x sh)))

/-- An ARRAY step of one row and one column with one destination that takes no statistics and computes no scale writes the
conversion of its accumulator, under D's scale, zero point and rounding mode, to D's element (05 R138, R143, R145; 04 R120). -/
def Obligations.ArrayElementWritten : Prop :=
  ∀ (s : State) (t c : Nat) (up : Option ArrayUpset) (e : Env) (i : Instr) (op : ArrayOp) (k : Nat) (o : Operand),
    (i, op, k) ∈ arrayRows t c up → issues s t c e 0x04 k → memorySound s → stepUpset e up = none →
    let r := arrayIssue (issued s t c) e op
    let sh := arrayShape e.word
    let x := arrayMats r e op
    let p := posD o 0 0
    let sc := elemScale r (some e.quarter) o p
    Status.lowest (arrayConds r e op) = .ok → runsCut r e (arrayFar e x sh) = false → sh.m = 1 → sh.n = 1 →
    x.ds = [o] → o.rec_ = none → o.sg.group < 2 →
    ∃ u, completes i s e u .ok [(flagScale, false)] ∧
      elemCode u none o.d p = (o.d.fmt.convert (Dest.mode ⟨o, x.key⟩ (o.d.index p))
        (arrayAcc r e.quarter op x sh 0 0).1 sc.1 sc.2).code % 2 ^ o.d.fmt.width

/-- A window of the chaff ramp ends on a region of a tile that a field occupies: the tile's generator has given its rows' outputs
and the gap, one for both regions in whole-array mode, goes on at the next density, at most to the floor. A parity error that
chaff finds is recorded and makes its region's next pass a stall load (05 R154, R157, R159, R160; 13 R363). -/
def Obligations.ChaffRampSteps : Prop :=
  ∀ (s : State) (t g : Nat) (up : Option ArrayUpset), g < 2 → tileRuns s t = true → fieldsOn s t ≠ [] →
    let gap := if SMap.get false s.tiles.halfMode t = true then [g] else [0, 1]
    let x := SMap.get {} s.tiles.regions (2 * t + gap.headD 0)
    ∃ u, exec (.chaffDensityStep t g up) s = .next u ∧
      SMap.get 0 u.tiles.chaff t ^^^ powerChaff t =
        xorshiftN (chaffRows s.fields.chaffFloor x.ramp * (if x.two then 16 else 8)) (SMap.get 0 s.tiles.chaff t ^^^ powerChaff t) ∧
      (∀ k ∈ gap, (SMap.get {} u.tiles.regions (2 * t + k)).ramp = min 9 (x.ramp + 1)) ∧
      (∀ k ∈ gap, ∀ p, up = some p → p.column % 32 / 16 = k → (SMap.get {} u.tiles.regions (2 * t + k)).stall = true) ∧
      (∀ j, (∀ k ∈ gap, j ≠ 2 * t + k) → SMap.get {} u.tiles.regions j = SMap.get {} s.tiles.regions j) ∧
      (∀ j, j ≠ t → SMap.get 0 u.tiles.chaff j = SMap.get 0 s.tiles.chaff j) ∧
      u = { s with tiles := { s.tiles with regions := u.tiles.regions, chaff := u.tiles.chaff }, mgmt := u.mgmt } ∧
      ((∀ p, up = some p → p.column % 32 / 16 ∉ gap) → u.mgmt = s.mgmt)

/-! ### The vector chain (07) -/

/-- The state in which a CHAIN step's conditions are judged. -/
def chainIssue (s : State) (e : Env) : State := readKey (readSlots s e (chainSlots s e)) e

/-- What a CHAIN step may store to: the elements of D that it writes, their scales and statistics, and its scalar block. -/
def chainStores (e : Env) (k : ChainWork) : List (Nat × Nat) :=
  let ps := k.due.map fun w => k.c.d.at w.e
  (if k.c.shape.usesD then
    elemRuns k.c.d.d ps ++ scaleRuns k.c.d ps
      ++ statRuns false k.c.d (recipeOf e.fd k.c.d.d.kind).history (ps.map (k.c.d.sg.groupIndex k.c.d.d)) (ps.map k.c.d.d.index)
  else []) ++ k.c.blockRuns e.tile

/-- A CHAIN step that passes its checks runs its shape: it completes with OK, with E_RANGE for a negative length or an element
beyond D, or with E_RESERVED for a malformed statistics entry; it writes CMP and NONFINITE; it stores only to the elements due,
their scales and statistics and its scalar block (07 R185, R186, R192, R200 to R202). -/
def Obligations.ChainRunCompletes : Prop :=
  ∀ (s : State) (t c : Nat) (e : Env),
    issues s t c e 0x05 1 → memorySound s →
    let r := chainIssue (issued s t c) e
    let k := chainWork r e
    1 ≤ (recipeOf e.fd k.c.d.d.kind).history →
    Status.lowest (chainConds r e) = .ok → runsCut r e (chainFar e k.c) = false →
    ∃ u st nonfinite, completes (.chainRun t c) s e u st [(flagCmp, k.run.cmp), (flagNonfinite, nonfinite)] ∧
      (st = .ok ∨ st = .range ∨ st = .reserved) ∧ (k.neg = false → k.above = false → k.c.d.rec_ = none → st = .ok) ∧
      storesOnly (issued s t c) u e (chainStores e k)

/-- A CHAIN step with one element due to a destination that takes no statistics writes the conversion of that element's value,
under D's scale, zero point and rounding mode (07 R194; 04 R116, R120, R121). -/
def Obligations.ChainElementWritten : Prop :=
  ∀ (s : State) (t c : Nat) (e : Env) (w : Due),
    issues s t c e 0x05 1 → memorySound s →
    let r := chainIssue (issued s t c) e
    let k := chainWork r e
    let o := k.c.d
    let sc := elemScale r (some e.quarter) o (o.at w.e)
    Status.lowest (chainConds r e) = .ok → runsCut r e (chainFar e k.c) = false → o.rec_ = none →
    k.due = [w] → w.beat < ceilDiv k.c.count 64 → w.e < k.c.d0 + k.c.count →
    ∃ u st nonfinite, completes (.chainRun t c) s e u st [(flagCmp, k.run.cmp), (flagNonfinite, nonfinite)] ∧
      elemCode u none o.d (o.at w.e) = (o.d.fmt.convert (Dest.mode ⟨o, k.key⟩ (o.d.index (o.at w.e))) w.x sc.1 sc.2).code
        % 2 ^ o.d.fmt.width

/-! ### Moves, fences and lofts (08) -/

/-- COPY writes the code of each element of A's block to D's block, FILL its pattern; both store nothing else (08 R217 to R220). A
word of A that a hop of the network spoils on its way ends COPY with E_UNCORRECTABLE (09 R239). -/
def movesWriteBlock : Prop :=
  ∀ (s : State) (t c : Nat) (e : Env), memorySound s →
    let n0 := moveE0 e.word
    let n1 := moveE1 e.word
    (issues s t c e 0x06 1 →
      let r := readSlots (issued s t c) e (issueSlots (issued s t c) e [stepA e.word, stepD e.word] [] [])
      let a := operand r e (stepA e.word) e.originA
      let d := operand r e (stepD e.word) e.originD
      Status.lowest (copyConds r e) = .ok → runsCut r e (moveRuns e a ++ moveRuns e d) = false → runsInMemory (moveRuns e d) →
      ∃ u, completes (.copy t c []) s e u .ok [] ∧ storesOnly (issued s t c) u e (moveRuns e d) ∧
        (separate d.d (blockPos d.origin n0 n1) → ∀ i j, i < n0 → j < n1 →
          elemCode u none d.d (d.origin.add ⟨i, j, 0, 0⟩) = elemCode r (some e.quarter) a.d (a.origin.add ⟨i, j, 0, 0⟩)) ∧
        ∀ w hops, w ∈ hops → inPad t (16 * w) = false → (∃ x ∈ moveRuns e a, x.2 ≠ 0 ∧ x.1 / 16 ≤ w ∧ w ≤ (x.1 + x.2 - 1) / 16) →
          ∃ u, completes (.copy t c hops) s e u .uncorrectable []) ∧
    (issues s t c e 0x06 3 →
      let r := readSlots (issued s t c) e (issueSlots (issued s t c) e [stepD e.word] [] [])
      let d := operand r e (stepD e.word) e.originD
      Status.lowest (fillConds r e) = .ok → runsCut r e (moveRuns e d) = false → runsInMemory (moveRuns e d) →
      ∃ u, completes (.fill t c) s e u .ok [] ∧ storesOnly (issued s t c) u e (moveRuns e d) ∧
        (separate d.d (blockPos d.origin n0 n1) → ∀ i j, i < n0 → j < n1 →
          elemCode u none d.d (d.origin.add ⟨i, j, 0, 0⟩) = fillPattern e.word % 2 ^ d.d.fmt.width))

/-- FENCE clears its field's log on every base die in service; a line that such a log named, unless it had overflowed, is held by
no other loft in service; and no byte of memory changes (08 R222, R225). -/
def fenceInvalidatesLoggedLines : Prop :=
  ∀ (s : State) (t c : Nat) (e : Env),
    issues s t c e 0x06 2 → bits e.word.toNat 113 16 = 0 → fenceReaches s e.quarter = true →
    ∃ u, completes (.fence t c) s e u .ok [] ∧
      u = { issued s t c with mem := { s.mem with lofts := u.mem.lofts, logs := u.mem.logs } } ∧
      (∀ d, d ∈ servingQuarters s → SMap.get {} u.mem.logs (16 * d + e.field) = {}) ∧
      (∀ d d' line, d ∈ servingQuarters s → d' ∈ servingQuarters s → d' ≠ d →
        (SMap.get {} s.mem.logs (16 * d + e.field)).overflow = false →
        line ∈ (SMap.get {} s.mem.logs (16 * d + e.field)).lines →
        ∀ l ∈ (loftOf u d').lines, l.1 ≠ line)

/-- A fill that returns ends unless a split ring cuts it off: unmarked, its line is held with the bytes read and LOFT counts it; marked, no line is installed. An
invalidation takes its line, or every line of a home, out of the loft and counts it; and neither touches another loft or a
byte of memory (08 R221 to R225, R227). -/
def loftTakesFillsAndOrders : Prop :=
  ∀ (s : State) (d line : Nat) (ups : List (Nat × BitVec 144)) (f : LoftFill), d < 4 →
    let l := loftOf s d
    ((l.fills.find? fun g => g.line == line) = some f → (f.marked = true ∨ ringReaches s d ((placement s line).1 / 128) = true) →
      ∃ u, exec (.loftFillReturn d line ups) s = .next u ∧
        (loftOf u d).fills = l.fills.erase f ∧
        (f.marked = true → (loftOf u d).lines = l.lines) ∧
        (f.marked = false → SMap.get [] (loftOf u d).lines line = f.data ∧ (loftOf u d).filled = wrapAdd 64 l.filled 1) ∧
        (∀ d', d' ≠ d → loftOf u d' = loftOf s d') ∧
        u = { s with mem := { s.mem with lofts := u.mem.lofts }, fresh := s.fresh + 1 }) ∧
    (∀ o, (∀ h ∈ orderHomes s o, ringReaches s h d = true) → ∃ u, exec (.loftInvalidation d o) s = .next u ∧
      (o = .external line → (∀ x ∈ (loftOf u d).lines, x.1 ≠ line) ∧
        ((∃ x ∈ l.lines, x.1 = line) → (loftOf u d).invExt = wrapAdd 64 l.invExt 1)) ∧
      (o = .fence [line] → (∀ x ∈ (loftOf u d).lines, x.1 ≠ line) ∧
        ((∃ x ∈ l.lines, x.1 = line) → (loftOf u d).invFence = wrapAdd 64 l.invFence 1)) ∧
      (∀ h, o = .drop h → (∀ x ∈ (loftOf u d).lines, (placement s x.1).1 / 128 ≠ h) ∧
        (loftOf u d).ovDrops = wrapAdd 64 l.ovDrops 1) ∧
      (∀ x ∈ (loftOf u d).lines, x ∈ l.lines) ∧
      (∀ d', d' ≠ d → loftOf u d' = loftOf s d') ∧
      u = { s with mem := { s.mem with lofts := u.mem.lofts } })

/-! ### Scan engines and check-value units (09) -/

/-- GATHER with every index within A, or with its zero fill set, completes with OK: row r of D holds the row of A that index r
selects, or zeros where the index lies outside, the engine's LAST_STATUS is OK and PROGRESS is COUNT, and nothing else is
stored to (09 R248, R249). -/
def gatherCopiesRows : Prop :=
  ∀ (s : State) (t c : Nat) (e : Env),
    issues s t c e 0x07 1 → memorySound s →
    let r := readSlots (issued s t c) e (issueSlots (issued s t c) e [stepA e.word, stepB e.word, stepD e.word] [] [])
    let g := gatherOf r e
    let k := stepUnit e.word
    Status.lowest (gatherConds r e) = .ok → runsCut r e (gatherPicks r e g ++ g.bRuns ++ g.dRuns) = false → runsInMemory g.dRuns →
    (bit (stepHi e.word) 13 = true ∨ ∀ i, i < g.n → (gatherRow r e g i).isSome = true) →
    ∃ u m, completes (.gather t c) s e u .ok [] ∧
      u = setScan m e.quarter k { scanOf s e.quarter k with lastStatus := .ok, progress := g.n } ∧
      storesOnly (issued s t c) m e g.dRuns ∧
      (g.dRuns.Pairwise (fun x y => x.1 + x.2 ≤ y.1 ∨ y.1 + y.2 ≤ x.1) → ∀ i, i < g.n →
        seeBytes u none (rowAddr g.d (g.d.origin.i1 + i)) (rowBytes g.d.d) =
          match gatherRow r e g i with
          | some j => seeBytes r (some e.quarter) (rowAddr g.a j) (rowBytes g.d.d)
          | none => zeros (rowBytes g.d.d))

/-- The blocks of a sweep fed to a unit, as they stand in a state (09 R250). -/
def sweptUnit (s : State) (x : Scan) (u : Cvu) : Cvu :=
  (List.range x.count).foldl (fun v i => v.feed (seeBytes s none (x.start + i * x.stride) (16 * (x.block16m1 + 1))))
    (if x.initFirst then u.restart else u)

/-- SWEEP, and a write of GO to an engine, run the programmed sweep: the unit it names has taken every block in order, LAST_STATUS
of both is OK, PROGRESS is COUNT, and no byte of memory changes; a write without GO only sets the engine's registers (09 R249 to
R252). -/
def sweepsFeedUnit : Prop :=
  ∀ (s : State), memorySound s →
    (∀ (t c : Nat) (e : Env),
      let k := stepUnit e.word
      let x := scanOf s e.quarter k
      issues s t c e 0x07 2 → k ≤ 1 → bits e.word.toNat 109 16 = 0 → runsCut (issued s t c) e (sweepRuns x) = false →
      sweepStatus (issued s t c) (some e.field) x (cvuOf s e.quarter x.cvu) = .ok →
      ∃ u, completes (.sweep t c) s e u .ok [] ∧
        cvuOf u e.quarter x.cvu = { sweptUnit s x (cvuOf s e.quarter x.cvu) with lastStatus := .ok } ∧
        scanOf u e.quarter k = { x with lastStatus := .ok, progress := x.count } ∧
        u = { issued s t c with units := u.units, mem := u.mem } ∧ memFrame s u (fun _ => False)) ∧
    (∀ (w : Writer) (q k : Nat) (v : BitVec 256),
      q < 4 → k < 2 → (quarterOf s q).inService = true → (quarterOf s q).inReset = false → (scanOf s q k).busy = false →
      s.power.pllLocked = true →
      v.toNat &&& scanReserved = 0 →
      let y := { scanOf s q k with
        start := bits v.toNat 41 0, stride := bits v.toNat 105 64, count := bits v.toNat 159 128
        block16m1 := bits v.toNat 167 160, initFirst := bit v.toNat 193, cvu := bits v.toNat 195 194 }
      let f := match w with
        | .firmware _ => none
        | .tile t c => some (ctxOf s t c).owner
      (bit v.toNat 192 = false → exec (.sweepGo w q k v) s = .next (setScan s q k y)) ∧
      (bit v.toNat 192 = true → sweepStatus (setScan s q k y) f y (cvuOf s q y.cvu) = .ok →
        ∃ u, exec (.sweepGo w q k v) s = .next u ∧
          cvuOf u q y.cvu = { sweptUnit s y (cvuOf s q y.cvu) with lastStatus := .ok } ∧
          scanOf u q k = { y with lastStatus := .ok, progress := y.count } ∧
          u = { s with units := u.units, mem := u.mem } ∧ memFrame s u (fun _ => False)))

/-- FEED feeds a tensor's bytes, row by row in increasing element index, to its check-value unit, from INIT when the step says so,
and leaves VALUE, RESULT and BYTES there with LAST_STATUS OK (09 R251 to R253). -/
def feedUpdatesCheckValue : Prop :=
  ∀ (s : State) (t c : Nat) (e : Env),
    issues s t c e 0x08 1 → memorySound s →
    let r := readSlots (issued s t c) e (issueSlots (issued s t c) e [stepA e.word] [] [])
    let d := (operand r e (stepA e.word) .zero).d
    let k := stepUnit e.word
    let x := cvuOf s e.quarter k
    Status.lowest (feedConds r e) = .ok → x.ready = true → runsCut r e (tensorRuns d) = false → runsInMemory (tensorRuns d) →
    ∃ u m, completes (.feed t c) s e u .ok [] ∧
      u = setCvu m e.quarter k { (tensorRuns d).foldl (fun v (run : Nat × Nat) => v.feed (seeBytes r none run.1 run.2))
        (x.started (bit (stepLo e.word) 0)) with lastStatus := .ok } ∧
      storesOnly (issued s t c) m e []

/-- Lofts lose the lines of a fence's logs and of the orders they take, and keep the lines that fills bring (08 R221 to R227). -/
def Obligations.LoftsFollowFencesAndFills : Prop := fenceInvalidatesLoggedLines ∧ loftTakesFillsAndOrders

/-- A sweep and a FEED run their bytes through a check-value unit (09 R249 to R253). -/
def Obligations.CheckValueUnitsTakeBytes : Prop := sweepsFeedUnit ∧ feedUpdatesCheckValue

/-- COPY, FILL and GATHER write their destination's elements and nothing else (08 R217 to R220; 09 R248). -/
def Obligations.MovesAndGathersWrite : Prop := movesWriteBlock ∧ gatherCopiesRows

/-! ### Collectives (11) -/

/-- The COLL rows, their operation and OP code (11 R297). -/
def collRows (t c : Nat) : List (Instr × CollOp × Nat) :=
  [(.allreduce t c, .allreduce, 1), (.reduceScatter t c, .reduceScatter, 2), (.allGather t c, .allGather, 3),
    (.scalarAllreduce t c, .scalarAllreduce, 4), (.barrier t c, .barrier, 5), (.signalPeer t c, .signalPeer, 6)]

/-- The state in which a COLL step's conditions are judged: its slots read. -/
def collIssue (s : State) (e : Env) (op : CollOp) : State := readSlots s e (collSlots s e op)

/-- A COLL step that passes its checks puts its command record at the end of its group's queue under the next OP_SEQ, writes the
group's status, and sleeps on the command with its TIMEOUT, which is the whole of the row's own effect; no other group, context or
byte changes. The step completes when its command ends: in a group of one member that is ready with an empty queue, the start and
the end of the command follow, and the step completes with OK, NONFINITE that of the command and ABANDONED clear (03 R80; 11
R296, R299, R300, R303, R314). -/
def Obligations.CollStepsQueueAndSleep : Prop :=
  ∀ (s : State) (t c : Nat) (e : Env) (i : Instr) (op : CollOp) (k n : Nat) (g : Group),
    (i, op, k) ∈ collRows t c → issues s t c e 0x09 k → memorySound s → n = bits (stepHi e.word) 4 0 → groupOf s n = some g →
    let r := collIssue (issued s t c) e op
    let cmd := collRecord r e op g
    Status.lowest (collConds r e op) = .ok → g.queue.length + b2n g.run.isSome < 255 →
    ringReaches s e.quarter g.desc.home = true →
    ∃ u v, exec i s = .next u ∧ u = endStep t c e.word (.sleep v ⟨.coll n, 0, s.power.sclk, cmd.timeout⟩) ∧
      groupOf u n = some { g with queue := g.queue ++ [cmd], nextOpSeq := (g.nextOpSeq + 1) % 2 ^ 32 } ∧
      ctxOf u t c = { ctxOf (issued s t c) t c with
        state := .sleeping, waiting := some ⟨.coll n, 0, s.power.sclk, cmd.timeout⟩ } ∧
      u = { issued s t c with
        tiles := { (issued s t c).tiles with ctxs := u.tiles.ctxs }, mem := u.mem, colls := u.colls } ∧
      (∀ m, m ≠ n → groupOf u m = groupOf s m) ∧
      (∀ j, j ≠ 16 * t + c → SMap.get {} u.tiles.ctxs j = SMap.get {} s.tiles.ctxs j) ∧
      memFrame s u (inRuns [(g.desc.queueBase, 256)]) ∧
      (g.desc.size = 1 → g.state = .ready → g.run = none → g.queue = [] → tileRuns s (g.desc.crib 0) = true → quietLanes s →
        noBusy s → collCut s g cmd = false →
        ∃ v w z nonfinite, exec (.collectiveCommandStart n) u = .next v ∧ exec (.collectiveCommandEnd n) v = .next w ∧
          w = endStep t c e.word (.done z .ok [(flagNonfinite, nonfinite), (flagAbandoned, false)]))

/-- The sequencer of a ready group takes up its oldest command; a chunk whose header is that of the chunk expected next is taken
and counted, and one whose header is not ends the command and abandons the group (11 R296, R301, R306, R309). -/
def Obligations.SequencerTakesCommandsAndChunks : Prop :=
  ∀ (s : State) (n : Nat) (g : Group) (fd : Field),
    groupOf s n = some g → fieldOf s g.field = some fd → tileRuns s (g.desc.crib 0) = true → quietLanes s →
    (∀ c rest, g.state = .ready → g.run = none → g.queue = c :: rest →
      (c.op = .barrier ∨ c.op = .signalPeer ∨ (c.op = .scalarAllreduce ∧ g.desc.size ≠ 1)) → collCut s g c = false →
      (g.desc.size = 1 ∨ g.checkSent = true ∨ ((portOf s g.desc.nextPort).peerSerial = g.desc.nextSerial ∧
        (portOf s g.desc.prevPort).peerSerial = g.desc.prevSerial)) →
      ∃ u g' r, exec (.collectiveCommandStart n) s = .next u ∧ groupOf u n = some g' ∧ g'.state = .running ∧ g'.queue = rest ∧
        g'.run = some r ∧ r.cmd = c ∧ g'.epoch = g.epoch ∧ g'.checkSent = true ∧ ∀ m, m ≠ n → groupOf u m = groupOf s m) ∧
    (∀ r h, g.state = .running → g.run = some r → memorySound s → noBusy s → collCut s g r.cmd = false → (headerEpoch h - g.epoch).msb = false →
      headerOpSeq h = r.cmd.opSeq →
      (∀ p, headerMatches g r h = some p →
        ∃ u g' r', exec (.chunkArrival n h) s = .next u ∧ groupOf u n = some g' ∧ g'.state = .running ∧ g'.run = some r' ∧
          r'.received = r.received + 1 ∧ r'.cmd = r.cmd ∧ g'.chunksRecv = wrapAdd 64 g.chunksRecv 1) ∧
      (headerMatches g r h = none →
        ∃ u g', exec (.chunkArrival n h) s = .next u ∧ groupOf u n = some g' ∧ g'.state = .abandoned ∧ g'.run = none ∧
          g'.queue = []))

/-- A command whose part has ended leaves its group ready with DONE_OP_SEQ set, adds 1 to its DONE_WORD, and its step completes with
OK; a command whose TIMEOUT has expired abandons the group and ends every command of it; member 0 of a partitioned group whose
neighbour links are in order sends a rejoin token with the largest epoch it knows (11 R300, R316, R317). -/
def Obligations.CommandsEndAndTimeOut : Prop :=
  ∀ (s : State) (n : Nat) (g : Group), groupOf s n = some g → quietLanes s →
    (∀ r, g.run = some r → partEnded s g r = true → memorySound s → noBusy s → collCut s g r.cmd = false →
      ∃ u g', exec (.collectiveCommandEnd n) s = .next u ∧ groupOf u n = some g' ∧ g'.state = .ready ∧ g'.run = none ∧
        g'.doneOpSeq = r.cmd.opSeq ∧ g'.lastStatus = g.lastStatus ∧ g'.queue = g.queue ∧
        (r.cmd.doneEn = true → (attrOf s r.cmd.doneQuarter r.cmd.doneWord).field ≠ 0xFF →
          ringReaches s g.desc.home r.cmd.doneQuarter = true →
          signalOf u r.cmd.doneQuarter r.cmd.doneWord = signalOf s r.cmd.doneQuarter r.cmd.doneWord + 1) ∧
        (∀ x w, (ctxOf s r.cmd.tile r.cmd.ctx) = x → x.state = .sleeping → x.waiting.map Waiting.cond = some (.coll n) →
          stepEntry s r.cmd.tile x.step = some w →
          ∃ z, u = endStep r.cmd.tile r.cmd.ctx w.word (.done z .ok [(flagNonfinite, r.nonfinite), (flagAbandoned, false)]))) ∧
    (∀ r, g.run = some r → r.cmd.start + r.cmd.timeout ≤ s.power.sclk → collCut s g r.cmd = false →
      ∃ u g', exec (.collectiveTimeout n) s = .next u ∧ groupOf u n = some g' ∧ g'.state = .abandoned ∧ g'.run = none ∧
        g'.queue = []) ∧
    (g.state = .partitioned → g.desc.rank = 0 → g.desc.size ≠ 1 → groupCut s g = false →
      exec (.rejoinTokenTimer n) s =
        .next (sendFlit s g.desc.nextPort (controlFlit g 3 0 (epochMax g.epoch g.tokenEpoch).toNat)))

/-! ### Filub ports (10; 11 R301 to R316) -/

/-- A WRITE flit of a group whose command expects data stores its payload at its address and nowhere else, counts in its receive
slot, if it is one of the four, unless it is the last, and moves the port's receive sequence on (10 R269, R270; 11 R306, R309). -/
def writeFlitStoresPayload : Prop :=
  ∀ (s : State) (k i : Nat) (f : Flit) (g : Group) (r : CollRun),
    accepts s k f → f.type = flitWrite → memorySound s → flitGroup s f = some g → writeFlitStatus s f (some g) = .ok →
    g.state ≠ .partitioned → g.state ≠ .abandoned → g.run = some r → r.received ≠ (expectPlan g.desc r.cmd).length →
    receiveSlot g r.cmd f.addr = some i → runCut s (portQuarter k) f.addr f.length = false →
    ∃ u, exec (.writeFlit k f) s = .next u ∧
      (∀ j, j < f.length → u.mem.bytes.read (f.addr + j) = f.payload.getD j 0) ∧
      memFrame s u (inRuns [(f.addr, f.length)]) ∧
      groupOf u f.tag = some (if f.last ∨ 4 ≤ i then g else { g with slotFlits := SMap.modify 0 g.slotFlits i (· + 1) }) ∧
      (portOf u k).rxSeq = (f.seq + 1) % 4096 ∧
      u = { s with mem := u.mem, colls := u.colls, ports := u.ports, out := u.out }

/-- A SIGNAL flit to a word that a field owns adds its increment and pulses the word's wire; one to no signal word is refused with
E_RANGE and a record, and one on a collective lane whose TAG names no group is refused too; neither changes a word; in each case
the port's receive sequence moves on (10 R269, R270; 11 R291; 15 R398). -/
def signalFlitAdds : Prop :=
  ∀ (s : State) (k : Nat) (f : Flit), accepts s k f → f.type = flitSignal → isControl f = false →
    (∀ q w, signalTarget f.addr = some (q, w) → quarterHeld s q = false → (attrOf s q w).field ≠ 0xFF →
      ringReaches s (portQuarter k) q = true → (f.lane < 16 → (flitGroup s f).isSome = true) →
      ∃ u, exec (.signalFlit k f) s = .next u ∧
        (∀ j, SMap.get 0 u.sync.words j = SMap.get 0 s.sync.words j +
          if j = 4096 * q + w then BitVec.ofNat 32 (bits (word1 f) 31 0) else 0) ∧
        (∀ j, SMap.get 0 u.sync.sent j = SMap.get 0 s.sync.sent j + if j = 64 * q + (attrOf s q w).wake then 1 else 0) ∧
        (portOf u k).rxSeq = (f.seq + 1) % 4096 ∧ u = { s with sync := u.sync, ports := u.ports, out := u.out }) ∧
    (f.lane < 16 → flitGroup s f = none →
      ∃ u, exec (.signalFlit k f) s = .next u ∧ u.sync = s.sync ∧ (portOf u k).rxSeq = (f.seq + 1) % 4096) ∧
    (signalTarget f.addr = none →
      ∃ u, exec (.signalFlit k f) s = .next u ∧ u.mgmt = (refusedAccess s 2 (portQuarter k) f.addr .range).mgmt ∧
        (portOf u k).rxSeq = (f.seq + 1) % 4096 ∧ u = { s with mgmt := u.mgmt, ports := u.ports, out := u.out })

/-- Group control flits: a slot release frees slots of the command in flight; a partition notice of a newer epoch partitions the
group at that epoch; a rejoin token moves a member on to the larger epoch, and makes member 0 of a partitioned group ready at
the token's; a ready token makes the others ready at its epoch, and one with a command in flight goes on with it; a group check that equals the member's own marks the
neighbour's link checked (11 R301, R306, R308, R315, R316). -/
def Obligations.ControlFlitsMoveGroups : Prop :=
  ∀ (s : State) (k : Nat) (f : Flit) (g : Group),
    accepts s k f → isControl f = true → bits (word1 f) 127 32 = 0 → flitGroup s f = some g →
    let v := BitVec.ofNat 16 (bits (word1 f) 31 16)
    let becomes := fun (i : Instr) (p : Group → Prop) => ∃ u g', exec i s = .next u ∧ groupOf u f.tag = some g' ∧ p g'
    (∀ r, controlCode f = 1 → g.run = some r → becomes (.slotRelease k f) fun g' =>
      ∃ r', g'.run = some r' ∧ r'.cmd = r.cmd ∧ r'.released = min r.sent (r.released + bits (word1 f) 15 8)) ∧
    (controlCode f = 2 → (v - g.epoch).msb = false → v ≠ g.epoch → g.state ≠ .abandoned → becomes (.partitionNotice k f) fun g' =>
      g'.state = .partitioned ∧ g'.epoch = v ∧
      g'.partitions = if g.state = .partitioned then g.partitions else satAdd 32 g.partitions 1) ∧
    (controlCode f = 3 → g.state ≠ .abandoned → groupCut s g = false →
      (g.desc.rank ≠ 0 → becomes (.rejoinToken k f) fun g' => g'.epoch = epochMax g.epoch v ∧ g'.state = g.state) ∧
      (g.desc.rank = 0 → g.state = .partitioned → becomes (.rejoinToken k f) fun g' =>
        g'.epoch = v ∧ g'.state = .ready ∧ g'.doneOpSeq = 0 ∧ g'.nextOpSeq = 1 + g.queue.length)) ∧
    (controlCode f = 4 → g.desc.rank ≠ 0 → g.state ≠ .abandoned → becomes (.readyToken k f) fun g' =>
      g'.epoch = v ∧ g'.state = (if g.run.isSome = true then .running else .ready) ∧ g'.doneOpSeq = 0 ∧ g'.nextOpSeq = 1 + g.queue.length) ∧
    (controlCode f = 5 → g.state ≠ .abandoned → v = g.desc.check → becomes (.groupCheck k f) fun g' =>
      g'.nextChecked = (g.nextChecked || k == g.desc.nextPort) ∧ g'.prevChecked = (g.prevChecked || k == g.desc.prevPort))

/-- ABANDON from a neighbour abandons the group and ends its commands; REFUSE of a data flit ends the sending group's command and
abandons it, and REFUSE of no group's flit only makes a record; REFUSE counts on its port (10 R270; 11 R294, R309; 15 R398). -/
def Obligations.RefuseAndAbandonEndCommands : Prop :=
  ∀ (s : State) (k : Nat) (f : Flit), accepts s k f →
    (∀ g, f.type = flitAbandon → flitGroup s f = some g → g.state ≠ .abandoned →
      ∃ u g', exec (.abandonFlit k f) s = .next u ∧ groupOf u f.tag = some g' ∧ g'.state = .abandoned ∧ g'.run = none ∧
        g'.queue = []) ∧
    (f.type = flitRefuse →
      let n := bits (word1 f) 82 75
      let addr := bits (word1 f) 74 33
      let st := statusOf (bits (word1 f) 15 0)
      (∀ g r, groupOf s n = some g → g.desc.lane = bits (word1 f) 20 16 → g.desc.group = n → g.run = some r →
        r.cmd.op ≠ .signalPeer → scratchBase ≤ addr → addr < windowBase →
        ∃ u g', exec (.refuseFlit k f) s = .next u ∧ groupOf u n = some g' ∧ g'.state = .abandoned ∧ g'.run = none) ∧
      (groupOf s n = none →
        ∃ u, exec (.refuseFlit k f) s = .next u ∧ u.mgmt = (refusedAccess s 2 (portQuarter k) addr st).mgmt ∧ u.colls = s.colls ∧
          SMap.get 0 (portOf u k).counters 6 = wrapAdd 64 (SMap.get 0 (portOf s k).counters 6) 1 ∧
          (portOf u k).rxSeq = (f.seq + 1) % 4096))

/-- What a flit's acknowledgement takes off a port's replay window (10 R269). -/
def ackedBy (p : Port) (f : Flit) : Nat :=
  match p.held with
  | h :: _ => if (f.ackSeq + 4096 - h.seq) % 4096 ≤ p.held.length then (f.ackSeq + 4096 - h.seq) % 4096 else 0
  | [] => 0

/-- IDLE acknowledges and returns credits; NAK acknowledges and makes the port send again from the flit it names, as a replay
timeout does from the oldest flit held; a replay counts, and the eighth in a row without progress retrains the port; a
failed flit sends one NAK until the expected flit arrives (10 R266, R267, R269). -/
def Obligations.LinkFlitsAcknowledgeAndReplay : Prop :=
  ∀ (s : State) (k : Nat) (f : Flit), k < 6 → (portOf s k).state = .up → (portOf s k).waiting = [] → (portOf s k).late = none →
    let p := portOf s k
    let n := ackedBy p f
    (f.type = flitIdle → flitOk f = true →
      ∃ u, exec (.idleFlit k f) s = .next u ∧ (portOf u k).held = p.held.drop n ∧ (portOf u k).rxSeq = p.rxSeq ∧
        (∀ l, SMap.get 0 (portOf u k).credits l = SMap.get 0 p.credits l + if l = f.creditLane then f.creditCount else 0) ∧
        u = { s with ports := u.ports }) ∧
    (f.type = flitNak → flitOk f = true → p.replays < 7 →
      ∃ u, exec (.nakFlit k f) s = .next u ∧ (portOf u k).held = p.held.drop n ∧
        (portOf u k).replays = (if n = 0 then p.replays else 0) + 1 ∧
        u.out = (((p.held.drop n).dropWhile fun h => h.seq != f.ackSeq).map fun h =>
          Out.flit k { h with ackSeq := p.rxSeq }).reverse ++ s.out) ∧
    (∀ h rest, p.held = h :: rest →
      ∃ u, exec (.replayTimeout k) s = .next u ∧ (portOf u k).held = p.held ∧
        (p.replays < 7 → (portOf u k).replays = p.replays + 1 ∧ (portOf u k).retrains = p.retrains ∧
          u.out = (p.held.map fun h => Out.flit k { h with ackSeq := p.rxSeq }).reverse ++ s.out) ∧
        (7 ≤ p.replays → (portOf u k).replays = 0 ∧ (portOf u k).retrains = satAdd 16 p.retrains 1)) ∧
    (∃ u, exec (.failedFlit k f) s = .next u ∧ (portOf u k).nakSent = true ∧ (portOf u k).rxSeq = p.rxSeq ∧
      SMap.get 0 (portOf u k).counters 1 = wrapAdd 64 (SMap.get 0 p.counters 1) 1 ∧
      (p.nakSent = true → u.out = s.out) ∧
      (p.nakSent = false → ∃ x, u.out = .flit k x :: s.out ∧ x.type = flitNak ∧ x.ackSeq = p.rxSeq))

/-- IDENT on the lowest good module of a training port brings it up with the peer it names; a module that leaves service is taken
out of the port's mask, and one that trains again is put back with its IDENT sent, the last module taking the port down; a
heartbeat goes out on a port that is up; a module's poll refreshes its snapshot, and one that does not answer is absent and leaves
service (10 R268, R271, R273, R275, R280). -/
def modulesAndPeersFollow : Prop :=
  ∀ (s : State) (k m : Nat), k < 6 → m < 10 → quietLanes s →
    let p := portOf s k
    (∀ f, p.state = .training → bit p.modules.toNat m = true → m = lowModule p → f.type = flitIdent → f.lane = 31 →
      flitOk f = true → BitVec.ofNat 64 (bits (word1 f) 63 0) ≠ s.mgmt.fuses.serial →
      ∃ u, exec (.identFlit k m f) s = .next u ∧ (portOf u k).state = .up ∧
        (portOf u k).peerSerial = BitVec.ofNat 64 (bits (word1 f) 63 0) ∧ (portOf u k).peerPort = bits (word1 f) 66 64 ∧
        (portOf u k).rxSeq = 0) ∧
    (∀ cause, bit p.modules.toNat m = true →
      let mods := p.modules &&& ~~~(BitVec.ofNat 10 (2 ^ m))
      ∃ u, exec (.moduleOutOfService k m cause) s = .next u ∧ (portOf u k).modules = mods ∧
        (mods ≠ 0 → (portOf u k).state = p.state ∧ (portOf u k).held = p.held) ∧
        (mods = 0 → (portOf u k).state = .down ∧ (portOf u k).held = [] ∧ (portOf u k).txSeq = 0)) ∧
    (bit (SMap.get 0x3FF s.ports.fitted k).toNat m = true → bit p.modules.toNat m = false →
      bit p.absent.toNat m = false → linkRuns s (portQuarter k) = true → (p.state = .up ∨ p.state = .down ∨ p.state = .training) →
      ∃ u x, exec (.moduleRetrainTimer k m true) s = .next u ∧
        (portOf u k).modules = p.modules ||| BitVec.ofNat 10 (2 ^ m) ∧
        (portOf u k).state = (if p.state = .down then .training else p.state) ∧
        u.out = .flit k x :: s.out ∧ x.type = flitIdent) ∧
    (p.state = .up → p.held.length < replayWindow →
      ∃ u x, exec (.identHeartbeat k) s = .next u ∧ u.out = .flit k x :: s.out ∧ x.type = flitIdent ∧ x.lane = 17 ∧
        x.payload = identPayload s k ∧ (portOf u k).txSeq = (p.txSeq + 1) % 4096) ∧
    (bit (SMap.get 0x3FF s.ports.fitted k).toNat m = true → linkRuns s (portQuarter k) = true →
      (∀ memory fixed failed, ∃ u, exec (.cmisPoll k m (some memory) fixed failed) s = .next u ∧
        SMap.get [] (portOf u k).snapshots m = cmisSnapshot memory ∧ bit (portOf u k).absent.toNat m = false ∧
        SMap.get 0 (portOf u k).counters 3 = wrapAdd 64 (SMap.get 0 p.counters 3) fixed ∧
        SMap.get 0 (portOf u k).counters 4 = wrapAdd 64 (SMap.get 0 p.counters 4) failed ∧
        (portOf u k).modules = p.modules ∧ u = { s with ports := u.ports }) ∧
      (∀ fixed failed, ∃ u, exec (.cmisPoll k m none fixed failed) s = .next u ∧
        SMap.get [] (portOf u k).snapshots m = [] ∧ bit (portOf u k).absent.toNat m = true ∧
        bit (portOf u k).modules.toNat m = false))

/-- The sixteenth resend request in a row without progress retrains a die-to-die link; a link that retrains comes up on the
modules that both ends found good, and is held down when there are none or when its ends disagree for the second time running
(10 R277, R278). -/
def ringLinksResendAndRetrain : Prop :=
  ∀ (s : State) (l : Nat), l < 4 →
    let r := ringOf s l
    (∀ progress, r.state = .up →
      ∃ u, exec (.d2dResendRequest l progress) s = .next u ∧ u.out = .resend l :: s.out ∧
        (ringOf u l).state = (if progress = false ∧ 15 ≤ r.resends then .training else .up) ∧
        (progress = false → r.resends < 15 → (ringOf u l).resends = r.resends + 1) ∧
        (progress = true → (ringOf u l).resends = 0) ∧ (∀ j, j ≠ l → ringOf u j = ringOf s j)) ∧
    (∀ a b, r.state = .training → quietLanes s → s.ports.stalled = [] →
      ∃ u, exec (.ringLinkRetrain l a b) s = .next u ∧
        ((a &&& b = 0 ∨ (a ≠ b ∧ r.lastBad = true)) → (ringOf u l).state = .heldDown ∧ (ringOf u l).modules = 0) ∧
        (a &&& b ≠ 0 → (a = b ∨ r.lastBad = false) → (ringOf u l).state = .up ∧ (ringOf u l).modules = a &&& b) ∧
        (ringOf u l).disagree = (a != b) ∧ (a = b → ringSplit u = ringSplit s → u.mgmt = s.mgmt) ∧
        (∀ j, j ≠ l → ringOf u j = ringOf s j))

/-- A data flit stores its payload and a signal flit adds to its word (10 R270; 11 R291). -/
def Obligations.TransferFlitsAct : Prop := writeFlitStoresPayload ∧ signalFlitAdds

/-- The modules of a port and the links of the ring go out of service, train again and follow their peers (10 R271 to R278). -/
def Obligations.LinksFollowTheirModules : Prop := modulesAndPeersFollow ∧ ringLinksResendAndRetrain

/-! ### The training step (12) -/

/-- The conditions of the three MOW rows (12 R327, R330). -/
def pushConds (r : State) (e : Env) : List (Bool × Status) :=
  mowConds r e (stepA e.word != 0xFFFF || stepB e.word != 0xFFFF)
    [operandConds r e (stepD e.word) e.originD mowAccepts false, [(stepLo e.word == 0 || stepLo e.word % 256 != 0, .range)]]
def popConds (r : State) (e : Env) : List (Bool × Status) :=
  mowConds r e (stepB e.word != 0xFFFF || stepLo e.word != 0)
    [operandConds r e (stepD e.word) e.originD mowAccepts false,
     if stepA e.word != 0xFFFF then operandConds r e (stepA e.word) e.originA mowAccepts false else []]

/-- PUSH at the top of the mow adds a frame entry and moves TOP; out of order, or with no room, it counts and completes with
E_MOW_ORDER or E_MOW_FULL, the latter when both hold. POP of the top frame takes it off, with E_STALE_SHARD when its generation
differs; POP of any other counts and completes with E_MOW_ORDER. CLEAR empties the mow. Each stores only to the mow's control
block and frame entries (12 R328 to R330). -/
def Obligations.MowStepsMoveTop : Prop :=
  ∀ (s : State) (t c : Nat) (e : Env), memorySound s → e.fd.mowSize < 2 ^ 40 → runsInMemory (mowRuns e.fd) →
    runsCut s e (mowRuns e.fd) = false →
    let m := mowBlock s e
    let after := fun (u : State) => MowBlock.parse (seeBytes u none e.fd.mowBase 64)
    let leaves := fun (i : Instr) (st : Status) (m' : MowBlock) => ∃ u, completes i s e u st [] ∧ after u = m' ∧
      storesOnly (issued s t c) u e (mowRuns e.fd)
    m.entries ≤ 4092 →
    (issues s t c e 0x0A 1 →
      let r := readSlots (issued s t c) e (issueSlots (issued s t c) e [stepD e.word] [] [])
      let d := (operand r e (stepD e.word) e.originD).d
      let units := stepLo e.word / 256
      let inOrder := d.base = frameArea e.fd + 256 * m.top
      let room := m.top + units ≤ frameUnits e.fd ∧ m.entries < 4092
      Status.lowest (pushConds r e) = .ok →
      (inOrder → room → ∃ u, completes (.push t c) s e u .ok [] ∧
        after u = { m with top := m.top + units, entries := m.entries + 1, high := max m.high (m.top + units) } ∧
        Frame.parse (seeBytes u none (frameAddr e.fd m.entries) 16) = ⟨stepHi e.word, d.gen, m.top, units⟩ ∧
        storesOnly (issued s t c) u e (mowRuns e.fd)) ∧
      (¬ inOrder → room → leaves (.push t c) .mowOrder { m with orders := satAdd 32 m.orders 1 }) ∧
      (¬ room → leaves (.push t c) .mowFull { m with fulls := satAdd 32 m.fulls 1 })) ∧
    (issues s t c e 0x0A 2 →
      let r := readSlots (issued s t c) e
        (issueSlots (issued s t c) e ([stepD e.word] ++ if stepA e.word != 0xFFFF then [stepA e.word] else []) [] [])
      let d := (operand r e (stepD e.word) e.originD).d
      let f := Frame.parse (seeBytes s (some e.quarter) (frameAddr e.fd (m.entries - 1)) 16)
      let isTop := m.entries ≠ 0 ∧ f.layer = stepHi e.word ∧ frameArea e.fd + 256 * f.offset = d.base
      let stale := stepA e.word ≠ 0xFFFF ∧ (operand r e (stepA e.word) e.originA).d.gen ≠ f.gen
      Status.lowest (popConds r e) = .ok →
      (isTop → ¬ stale → leaves (.pop t c) .ok { m with top := m.top - f.size, entries := m.entries - 1 }) ∧
      (isTop → stale → leaves (.pop t c) .staleShard
        { m with top := m.top - f.size, entries := m.entries - 1, stale := satAdd 32 m.stale 1 }) ∧
      (¬ isTop → leaves (.pop t c) .mowOrder { m with orders := satAdd 32 m.orders 1 })) ∧
    (issues s t c e 0x0A 3 →
      Status.lowest (mowConds (issued s t c) e (stepA e.word != 0xFFFF || stepB e.word != 0xFFFF || stepD e.word != 0xFFFF
        || stepHi e.word != 0 || stepLo e.word != 0) []) = .ok →
      leaves (.clear t c) .ok { m with top := 0, entries := 0, high := 0 })

/-- A field whose step record and journals lie in memory, apart from every scratchpad, and whose loss-scale exponent is one that an
image may set (02 R50; 08 R230; 12 R345). -/
abbrev journalled (s : State) (e : Env) : Prop :=
  e.fd.base + e.fd.quarters.length * e.fd.journal ≤ scratchBase ∧ e.fd.initExp ≤ 40 ∧ e.fd.journalChunks ≤ 65536 ∧
  1 ≤ e.fd.quarters.length ∧ memorySound s

/-- PREPARE with IMM 0 takes S and V from the scalar block into the step record and sets it prepared, and with IMM 1 gives them to
the block; COMMIT of a prepared record decides: a stale shard, a non-finite sum of squares, or a good step, with that status; TAG
writes the record's generation as a shard tag (12 R320, R322, R324, R336, R338). -/
def Obligations.RecordStepsFollowProtocol : Prop :=
  ∀ (s : State) (t c : Nat) (e : Env), journalled s e →
    let rec0 := stepRecord s (some e.quarter) e.fd
    let a := stepA e.word
    let blk := readSlot e (issued s t c) a
    (issues s t c e 0x0B 2 → runsCut blk e (recordRuns e.fd) = false →
      Status.lowest (updateConds blk e (updateUnused e.word true false false true || 2 ≤ stepLo e.word) true
        (scalarConds blk e a)) = .ok →
      (stepLo e.word = 0 → rec0.state ≤ 1 →
        ∃ u, completes (.prepare t c) s e u .ok [] ∧ storesOnly (issued s t c) u e (recordRuns e.fd) ∧
          stepRecord u none e.fd = { rec0 with inSumsq := scalarOf blk e a 0, inReplay := scalarOf blk e a 1, state := 1 }) ∧
      (stepLo e.word = 0 → 1 < rec0.state →
        ∃ u, completes (.prepare t c) s e u .busy [] ∧ storesOnly (issued s t c) u e []) ∧
      (stepLo e.word = 1 →
        ∃ u, completes (.prepare t c) s e u .ok [] ∧ storesOnly (issued s t c) u e [(padAddr t (32 * a), 8)] ∧
          scalarOf u e a 0 = rec0.inSumsq ∧ scalarOf u e a 1 = rec0.inReplay)) ∧
    (issues s t c e 0x0B 3 → runsCut blk e (recordRuns e.fd) = false →
      Status.lowest (updateConds blk e (updateUnused e.word true false false false) true (scalarConds blk e a)) = .ok →
      rec0.state = 1 →
      let sq := BitVec.ofNat 32 (scalarOf blk e a 0)
      let rp := BitVec.ofNat 32 (scalarOf blk e a 1)
      let stale := flt 0 rp = true ∨ isNaN rp = true
      ∃ u st, completes (.commit t c) s e u st [(flagNonfinite, st == .nonfinite)] ∧
        storesOnly (issued s t c) u e (recordRuns e.fd) ∧
        (stale → st = .staleShard ∧ (stepRecord u none e.fd).decision = 2) ∧
        (¬ stale → f32Finite sq = false → st = .nonfinite ∧ (stepRecord u none e.fd).decision = 1) ∧
        (¬ stale → f32Finite sq = true → st = .ok ∧ (stepRecord u none e.fd).decision = 0) ∧
        (stepRecord u none e.fd).state = 2 ∧ (stepRecord u none e.fd).outSumsq = scalarOf blk e a 0 ∧
        (stepRecord u none e.fd).outReplay = scalarOf blk e a 1 ∧ (stepRecord u none e.fd).step = rec0.step ∧
        (stepRecord u none e.fd).norm = (commitNorm sq rec0.lsExp).toNat) ∧
    (issues s t c e 0x0B 7 →
      let r := readSlots (issued s t c) e (issueSlots (issued s t c) e [stepD e.word] [] [])
      let d := (operand r e (stepD e.word) e.originD).d
      Status.lowest (updateConds r e (updateUnused e.word false false true false) false
        (operandConds r e (stepD e.word) e.originD (fun f => f != .none && f != .int32) false ++
          ((d.base % 16 != 0 || d.layout == 2, .range) ::
          runConds r e true [(d.base, 16)]))) = .ok →
      runsCut r e [(d.base, 16)] = false → runsCut r e (recordRuns e.fd) = false → d.base < windowBase →
      ∃ u, completes (.tag t c) s e u .ok [] ∧ storesOnly (issued s t c) u e [(d.base, 16)] ∧
        seeBytes u none d.base 16 = leBytes 4 rec0.gen ++ zeros 12)

/-- GENCHECK completes with OK when every member's tag in A holds A's generation and nothing else, and with E_STALE_SHARD when one
does not, and stores nothing (12 R325). -/
def Obligations.GencheckComparesTags : Prop :=
  ∀ (s : State) (t c : Nat) (e : Env), issues s t c e 0x0B 8 → memorySound s →
    let r := readSlots (issued s t c) e (issueSlots (issued s t c) e [stepA e.word] [] [])
    let d := (operand r e (stepA e.word) e.originA).d
    let n := stepLo e.word
    let tags := (tagAddr d 0, 16 * n)
    Status.lowest (updateConds r e (updateUnused e.word true false false true) false
      (operandConds r e (stepA e.word) e.originA (fun f => f == .bf16 || f == .hi16) false ++ [(n < 1 || 8192 < n, .range)]
        ++ runConds r e false [tags])) = .ok →
    d.rank = 1 → d.layout = 0 → 8 * n ≤ d.ext.i0 → runsCut r e [tags] = false → tags.1 + tags.2 ≤ windowBase →
    let good := ∀ q, q < n → seeBytes r (some e.quarter) (tagAddr d q) 16 = tagBytes d.gen
    (good → ∃ u, completes (.gencheck t c) s e u .ok [] ∧ storesOnly (issued s t c) u e []) ∧
    (¬ good → ∃ u, completes (.gencheck t c) s e u .staleShard [] ∧ storesOnly (issued s t c) u e [])

/-- INIT leaves the step record at its start, the field's journals counted as scanned, and its STEP in every rounding key; CLOSE of
a committed record with no journal slot in use moves the record to the next step, by its decision, and gives every rounding
key the record's STEP (12 R321 to R323, R339). -/
def Obligations.InitAndCloseSetStep : Prop :=
  ∀ (s : State) (t c : Nat) (e : Env), journalled s e →
    let rec0 := stepRecord s (some e.quarter) e.fd
    let keys := fun (u : State) (step : Nat) => ∀ g ∈ e.fd.tiles, leNat (seeBytes u none (keyAddr e.fd g + 4) 4) = step
    (issues s t c e 0x0B 1 → applyInFlight (issued s t c) e.field = false →
      let r := issued s t c
      let slots := e.fd.quarters.flatMap fun q => (slotAddrs e.fd q).map fun a => (a, 256)
      Status.lowest (updateConds r e (updateUnused e.word false false false true) true
        (runConds r e true (ctlRuns e.fd ++ slots ++ keyRuns e.fd))) = .ok →
      runsCut r e (slots ++ keyRuns e.fd ++ recordRuns e.fd ++ ctlRuns e.fd) = false →
      ∃ u m, completes (.init t c) s e u .ok [] ∧ u = setScanned m e.field true ∧
        storesOnly r m e (recordRuns e.fd ++ ctlRuns e.fd ++ slots ++ keyRuns e.fd) ∧
        stepRecord u none e.fd = rec0.init (stepLo e.word) e.fd.initExp ∧
        (∀ q ∈ e.fd.quarters, (journalBlock u none e.fd q).nextSeq = 1 ∧ (journalBlock u none e.fd q).inUse = 0 ∧
          ∀ a ∈ slotAddrs e.fd q, (slotHeader u none a).valid = false) ∧
        keys u (stepLo e.word)) ∧
    (issues s t c e 0x0B 5 → rec0.state = 2 → rec0.lsExp ≤ 40 → e.fd.scanned = true →
      (∀ q ∈ e.fd.quarters, (journalBlock s (some e.quarter) e.fd q).inUse = 0) →
      let r := issued s t c
      Status.lowest (updateConds r e (updateUnused e.word false false false false) true
        (runConds r e true (ctlRuns e.fd ++ keyRuns e.fd))) = .ok →
      runsCut r e (keyRuns e.fd ++ recordRuns e.fd ++ ctlRuns e.fd) = false →
      ∃ u, completes (.updateClose t c) s e u .ok [] ∧ storesOnly r u e (recordRuns e.fd ++ keyRuns e.fd) ∧
        let rec1 := stepRecord u none e.fd
        rec1.state = 0 ∧ keys u rec1.step ∧ rec1.lossScale = lossScaleOf rec1.lsExp ∧
        (rec0.decision = 0 → rec1.step = (rec0.step + 1) % 2 ^ 32 ∧ rec1.gen = rec0.step ∧
          (rec0.good + 1 < e.fd.growth → rec1.good = (rec0.good + 1) % 65536 ∧ rec1.lsExp = rec0.lsExp) ∧
          (e.fd.growth ≤ rec0.good + 1 → rec1.good = 0 ∧ rec1.lsExp = min 40 (rec0.lsExp + 1))) ∧
        (rec0.decision = 1 → rec1.step = (rec0.step + 1) % 2 ^ 32 ∧ rec1.gen = rec0.gen ∧ rec1.good = 0 ∧
          rec1.lsExp = rec0.lsExp - 1) ∧
        (2 ≤ rec0.decision → rec1.step = rec0.step ∧ rec1.gen = rec0.gen ∧ rec1.lsExp = rec0.lsExp))

/-- Runs that share no byte. -/
abbrev runsApart (rs : List (Nat × Nat)) : Prop := rs.Pairwise fun x y => x.1 + x.2 ≤ y.1 ∨ y.1 + y.2 ≤ x.1

/-- The state in which an APPLY's conditions are judged, and its conditions. -/
def applyIssue (s : State) (e : Env) : State :=
  let r := readSlots s e (issueSlots s e ([0, 1, 4, 5, 6].map (stepA e.word + ·) ++ [stepD e.word]) ([2, 3].map (stepA e.word + ·))
    [stepB e.word])
  if (applyIn r e).moments.any fun k => ((applyIn r e).op k).rec_.isSome then readKey r e else r
def applyForm (r : State) (e : Env) : List (Bool × Status) :=
  (List.zip (List.range 7) applyForms).flatMap (fun p => applyOperand r e p.1 p.2) ++ applyBlocks r e
/-- What an APPLY may store to: the homes, the staging area and the journal; and the statistics of its moments. -/
def applyStores (e : Env) (x : ApplyIn) : List (Nat × Nat) :=
  x.writes ++ [(x.stg.d.base, imageBytes), (e.fd.journalBase e.quarter, e.fd.journal)]
def applyStats (e : Env) (x : ApplyIn) : List (Nat × Nat) :=
  x.moments.flatMap fun k =>
    statRuns false (x.op k) (recipeOf e.fd (x.op k).d.kind).history [0] ((x.block k).map (x.op k).d.index)

/-- APPLY of a good step whose mark already names the record's step stores nothing; otherwise it writes the updated weights and
moments and the stubble to their homes, sets the mark, and stores nothing beside them but in its staging area, its quarter's
journal and its moments' statistics; it completes with OK, or, where a moment has statistics, with E_RESERVED for a malformed entry
(06 R167, R169; 12 R340 to R344). -/
def Obligations.ApplyUpdatesBlockOnce : Prop :=
  ∀ (s : State) (t c : Nat) (e : Env), issues s t c e 0x0B 4 → memorySound s →
    let r := applyIssue (issued s t c) e
    let x := applyIn r e
    let rec0 := stepRecord r (some e.quarter) e.fd
    let mark := leNat (seeBytes r (some e.quarter) x.markAddr 2)
    Status.lowest (updateConds r e (stepHi e.word != 0) true (applyForm r e ++ applyPlaces r e x)) = .ok →
    runsCut r e (x.reads ++ x.writes ++ [(e.fd.journalBase e.quarter, e.fd.journal), (journalCtl e.fd e.quarter, 64)]
      ++ recordRuns e.fd) = false →
    rec0.state = 2 → rec0.decision = 0 → e.fd.scanned = true → runsInMemory (applyStores e x) → runsApart (applyStores e x) →
    (∀ a ∈ applyStores e x, ∀ b ∈ applyStats e x, a.1 + a.2 ≤ b.1 ∨ b.1 + b.2 ≤ a.1) →
    (∀ k ∈ x.moments, 1 ≤ (recipeOf e.fd (x.op k).d.kind).history) →
    (mark = rec0.step % 65536 → ∃ u, completes (.apply t c) s e u .ok [] ∧ storesOnly (issued s t c) u e []) ∧
    (mark ≠ rec0.step % 65536 → ((slotAddrs e.fd e.quarter).any fun a => (slotHeader r none a).free) = true →
      let us := updateBlock r e x rec0
      let parts := updateParts r e x us
      ∃ u m st, completes (.apply t c) s e u st [(flagNonfinite, us.any fun v => !f32Finite v.w1)] ∧
        (st = .ok ∨ st = .reserved) ∧ ((∀ k ∈ x.moments, (x.op k).rec_ = none) → st = .ok) ∧
        u = { m with fresh := s.fresh + 1 } ∧ storesOnly (issued s t c) m e (applyStores e x ++ applyStats e x) ∧
        (∀ k, k < 3 ∨ (k = 3 ∧ x.adam = true) → seeBytes u none (x.home k) (2 * x.c) = parts.getD k []) ∧
        seeBytes u none (x.home 6) x.c = parts.getD 4 [] ∧ seeBytes u none (x.scaleHome 6) x.scaleLen = parts.getD 5 [] ∧
        leNat (seeBytes u none x.markAddr 2) = rec0.step % 65536)

/-- RECOVER of a field with one journal and at most one open slot: with none open it rebuilds the journal's control block and counts
the journal scanned; with one it first writes the slot's parts and mark to their homes and retires the slot (12 R323, R347). -/
def Obligations.RecoverReplaysOpenSlot : Prop :=
  ∀ (s : State) (t c : Nat) (e : Env) (q : Nat), issues s t c e 0x0B 6 → journalled s e → e.fd.quarters = [q] →
    applyInFlight (issued s t c) e.field = false →
    let r := issued s t c
    let journal := (e.fd.journalBase q, e.fd.journal)
    let ctl := journalBlock s (some e.quarter) e.fd q
    Status.lowest (updateConds r e (updateUnused e.word false false false false) true (runConds r e true (ctlRuns e.fd))) = .ok →
    Status.lowest (runConds r e true [journal]) = .ok → runsCut r e [journal] = false →
    let recovered := fun (u : State) (n : Nat) => (journalBlock u none e.fd q).inUse = 0 ∧
      (journalBlock u none e.fd q).replayed = (ctl.replayed + n) % 2 ^ 64 ∧
      (journalBlock u none e.fd q).nextSeq =
        ((slotAddrs e.fd q).foldl (fun m a => max m (slotHeader s (some e.quarter) a).seq) 0 + 1) % 2 ^ 32 ∧
      (∀ fd, fieldOf u e.field = some fd → fd.scanned = true)
    (openSlots s (some e.quarter) e.fd = [] → ∃ u m, completes (.recover t c) s e u .ok [] ∧ u = setScanned m e.field true ∧ recovered u 0 ∧
      storesOnly r m e [(journalCtl e.fd q, 64)]) ∧
    (∀ a, openSlots s (some e.quarter) e.fd = [a] →
      let h := slotHeader s (some e.quarter) a
      let parts := slotParts s (some e.quarter) a h
      let homes := [(h.homeHi, 2 * h.count), (h.homeLo, 2 * h.count), (h.homeMom1, 2 * h.count), (h.homeMom2, 2 * h.count),
        (h.homeStb, h.count), (h.homeScale, 2 * ceilDiv h.count 128)]
      let named := (List.zip (List.range 6) homes).filter fun p => bit h.parts (min p.1 4)
      1 ≤ h.count → h.count ≤ blockMax → runsInMemory (homes ++ [(h.homeMark, 2)]) →
      Status.lowest (runConds r e true (homes ++ [(h.homeMark, 2)])) = .ok →
      runsCut r e (homes ++ [(h.homeMark, 2)]) = false → runsApart (homes ++ [(h.homeMark, 2), journal]) →
      ∃ u m, completes (.recover t c) s e u .ok [] ∧ u = setScanned m e.field true ∧ recovered u 1 ∧
        slotHeader u none a = { h with retired := true } ∧ leNat (seeBytes u none h.homeMark 2) = h.mark ∧
        (∀ p ∈ named, seeBytes u none p.2.1 p.2.2 = parts.getD p.1 []) ∧
        storesOnly r m e ([(journalCtl e.fd q, 64), (a, 256), (h.homeMark, 2)] ++ named.map (·.2)))

/-! ### Statistics (06), repeat computation and proving items (15) -/

/-- STATISTICS_UPDATE of an entry in memory adds its contribution, saturating; an update of a new STEP first pushes the running
maximum into the history ring and starts it again at zero. An entry with a reserved bit set is left as it is. Nothing but the
entry and the ring's next place is stored to (06 R167, R173). -/
def Obligations.StatisticsAddToEntry : Prop :=
  ∀ (s : State) (u : StatUpdate), u.base % 64 = 0 → runAllowed s .tile true u.base 64 = true → u.base + 64 ≤ windowBase →
    memorySound s → 1 ≤ u.history → u.history ≤ 1024 →
    let t := TensorEntry.parse (seeBytes s none u.base 64)
    let new := t.lastStep ≠ u.step.toNat
    let pos := t.histPos % u.history
    let ring := (u.histBase + 2 * pos, 2)
    (u.histBase = 0 ∨ (runAllowed s .tile true ring.1 2 = true ∧ (ring.1 + 2 ≤ u.base ∨ (u.base + 64 ≤ ring.1 ∧ ring.1 + 2 ≤ windowBase)))) →
    (t.reserved = true → ∃ v, exec (.statisticsUpdate u) s = .next v ∧ v = { s with mem := v.mem } ∧
      memFrame s v (fun _ => False)) ∧
    (t.reserved = false → ∃ v, exec (.statisticsUpdate u) s = .next v ∧ v = { s with mem := v.mem } ∧
      TensorEntry.parse (seeBytes v none u.base 64) =
        { elements := satAdd 64 t.elements u.elements, sqerr := satAdd 64 t.sqerr u.sqerr, sat := satAdd 32 t.sat u.sat
          nonfinite := satAdd 32 t.nonfinite u.nonfinite, retry := satAdd 32 t.retry u.retry
          exhausted := satAdd 32 t.exhausted u.exhausted
          amax := max (if t.lastStep = u.step.toNat then t.amax else 0) u.amax.toNat, lastStep := u.step.toNat
          histPos := if t.lastStep = u.step.toNat then t.histPos else (pos + 1) % u.history, reserved := false } ∧
      (new → u.histBase ≠ 0 → seeBytes v none ring.1 2 = leBytes 2 t.amax) ∧
      memFrame s v (inRuns ((u.base, 64) :: if new ∧ u.histBase ≠ 0 then [ring] else [])))

/-- The item held by a context waits at its ITEM_END for a repeat check still undecided, with a copy and a third tile (15 R405,
R408). -/
abbrev awaits (s : State) (t c : Nat) (e : Env) (k : RepeatCheck) (ct th : Nat) : Prop :=
  envAt s t c .running = some e ∧ (ctxOf s t c).check = some k ∧ k.copyTile = some ct ∧ k.thirdTile = some th ∧ k.outcome = none ∧
  k.atEnd = true

/-- The check contexts that run for a context's item. -/
abbrev checkRuns (s : State) (t c at_ : Nat) : Prop := SMap.get none s.tiles.checks at_ = some ⟨t, c⟩

/-- A check is decided: its context holds the outcome, no check context runs for it, and the item that waited ends (15 R408). -/
def decided (i : Instr) (s r : State) (t c : Nat) (e : Env) (k : RepeatCheck) (o : RepeatOutcome) : Prop :=
  exec i s = .next (endStep t c e.word (doItemEnd.itemEnd r e)) ∧
  (ctxOf r t c).check = some { k with outcome := some o } ∧ (ctxOf r t c).item = (ctxOf s t c).item ∧
  ∀ at_, ¬ checkRuns r t c at_

/-- REPEAT_COMPARE of equal digests decides match, writes no record and raises no level; of unequal digests it keeps the copy's
digest, and the item goes on waiting while the copy tile and the third tile are taken for it (15 R407). -/
def repeatCompareDecidesMatch : Prop :=
  ∀ (s : State) (t c : Nat) (e : Env) (k : RepeatCheck) (ct th : Nat) (ws : List WordWrite),
    awaits s t c e k ct th → k.d2 = none →
    (runDigest ws = (ctxOf s t c).digest → ∃ r, decided (.repeatCompare t c (some ws)) s r t c e k .match_ ∧
      r.mgmt = s.mgmt ∧ r.tiles.level = s.tiles.level) ∧
    (runDigest ws ≠ (ctxOf s t c).digest → ∃ u, exec (.repeatCompare t c (some ws)) s = .next u ∧
      ctxOf u t c = { ctxOf s t c with check := some { k with d2 := some (runDigest ws) } } ∧ u.mgmt = s.mgmt ∧
      ∀ at_, at_ = ct ∨ at_ = th →
        (∀ p ∈ s.tiles.checks, p.1 = at_ → p.2 = none ∨ p.2 = some ⟨t, c⟩) → checkRuns u t c at_)

/-- REPEAT_RESOLVE decides by the four digests, first row first: d4 = d1 and d3 = d2, permanent, the tile's level raised; d4 = d3
and d3 = d2, transient of the original; d1 = d3 and d3 = d4, transient of the copy; else unresolved (15 R407, R409). -/
def Obligations.RepeatResolveDecides : Prop :=
  ∀ (s : State) (t c : Nat) (e : Env) (k : RepeatCheck) (ct th : Nat) (w3 w4 : List WordWrite) (d2 : BitVec 64),
    awaits s t c e k ct th → k.d2 = some d2 → checkFor s th t c = true → checkFor s t t c = true →
    let d1 := (ctxOf s t c).digest
    let d3 := runDigest w3
    let d4 := runDigest w4
    let o := if d4 = d1 ∧ d3 = d2 then RepeatOutcome.permanent else if d4 = d3 ∧ d3 = d2 then .transientOriginal
      else if d1 = d3 ∧ d3 = d4 then .transientCopy else .unresolved
    ∃ u, exec (.repeatResolve t c (some w3) (some w4)) s = .next u ∧
      (∀ x, levelOf u x = if o = .permanent ∧ x = t then nextLevel s t else levelOf s x) ∧
      (o = .permanent → nextLevel s t = 5 → quarantined u t = true) ∧
      (o ≠ .permanent ∨ nextLevel s t < 5 → ∃ r, decided (.repeatResolve t c (some w3) (some w4)) s r t c e k o ∧
        (o = .unresolved → bit (ctxOf r t c).flags.toNat flagErr = true ∧ (ctxOf r t c).lastStatus = .uncorrectable) ∧
        (o ≠ .unresolved → (ctxOf r t c).flags = (ctxOf s t c).flags))

/-- REPEAT_TIMEOUT 20 ms after its TAKE leaves a check not compared; the quarter counts it, and REPEAT_SUMMARY starts the counts again
(15 R407, R408). -/
def repeatTimeoutsAreCounted : Prop :=
  (∀ (s : State) (t c : Nat) (k : RepeatCheck), (ctxOf s t c).check = some k → k.outcome = none → k.atEnd = false →
    k.started + 2000000 ≤ s.power.sclk →
    ∃ u, exec (.repeatTimeout t c) s = .next u ∧
      ctxOf u t c = { ctxOf s t c with check := some { k with outcome := some .notCompared } } ∧
      (∀ at_, ¬ checkRuns u t c at_) ∧
      (quarterOf u (tileQuarter t)).repeat7 = (quarterOf s (tileQuarter t)).repeat7 + 1 ∧ u.mem = s.mem ∧ u.mgmt = s.mgmt) ∧
  (∀ (s : State) (q : Nat), q < 4 → ∃ u, exec (.repeatSummary q) s = .next u ∧
    quarterOf u q = { quarterOf s q with repeat6 := 0, repeat7 := 0 } ∧
    (∀ p, p ≠ q → quarterOf u p = quarterOf s p) ∧
    u = { s with mgmt := u.mgmt, power := { s.power with quarters := u.power.quarters }, fresh := u.fresh })

/-- Repeat checks end in a match of digests or uncompared, the latter counted (15 R407, R408). -/
def Obligations.RepeatChecksSettle : Prop := repeatCompareDecidesMatch ∧ repeatTimeoutsAreCounted

/-- PROVING_ITEM_RUN on a free tile writes the item's step words to its check step area; with the digest expected it changes
nothing else but the tile's scratchpad; with another digest it also records a failure and raises the tile's level (03 R68, R69;
15 R402, R409). -/
def Obligations.ProvingItemComparesDigest : Prop :=
  ∀ (s : State) (t item : Nat) (ws : List WordWrite) (p : Pack) (i : PackItem),
    s.mgmt.pack = some p → p.items[item]? = some i → canProve s t = true → memorySound s →
    i.slots.length ≤ 2048 → i.data.length ≤ 786432 → i.steps.length ≤ 64 →
    let d := runDigest (ws.filter (·.own))
    ∃ u, exec (.provingItemRun t item ws) s = .next u ∧
      (∀ x, levelOf u x = if d ≠ i.digest ∧ x = t then nextLevel s t else levelOf s x) ∧
      (d ≠ i.digest → nextLevel s t = 5 → quarantined u t = true) ∧
      (d = i.digest ∨ nextLevel s t < 5 →
        (∀ k w, i.steps[k]? = some w → SMap.get 0 u.tiles.checkSteps (64 * t + k) = w) ∧
        ∀ j, j / 64 ≠ t → SMap.get 0 u.tiles.checkSteps j = SMap.get 0 s.tiles.checkSteps j) ∧
      (d = i.digest → u = { s with mem := u.mem, tiles := { s.tiles with checkSteps := u.tiles.checkSteps } } ∧ memFrame s u (inRuns [(padAddr t 0, 0x100000)])) ∧
      (d ≠ i.digest → nextLevel s t < 5 → ∃ r : Fault16, u.mgmt = (logFault s r).mgmt ∧ r.cls = 0x09 ∧ r.status = .ok ∧ r.tile = t ∧
        r.detail = BitVec.ofNat 512 (p.version + item % 65536 * 2 ^ 32 + i.digest.toNat * 2 ^ 64 + d.toNat * 2 ^ 128))

/-! ### Stacks: temperature, patrol, repair (08 R232, R233; 09 R240 to R246) -/

/-- A stack's reading moves its thermal state as the table of 08 R232 decides; nothing else changes, but that a stack that becomes
Critical resets the fields with granules on it (08 R232, R233). -/
def Obligations.StackReadingMovesState : Prop :=
  ∀ (s : State) (k : Nat) (c : Int), k < 16 → (quarterOf s (k / 4)).inService = true → s.power.pllLocked = true →
    wrapperTaken s (k / 4) = false →
    let old := thermalOf s k
    ∃ u, exec (.stackTemperatureRead k c) s = .next u ∧ sensor u (8 + k) = c ∧
      (95 ≤ c → thermalOf u k = .critical) ∧
      (85 ≤ c → c < 95 → thermalOf u k = if old = .critical then .critical else .tooHot) ∧
      (80 < c → c < 85 → thermalOf u k = if old = .normal then .normal else .tooHot) ∧
      (c ≤ 80 → thermalOf u k = if old = .critical then .tooHot else .normal) ∧
      (∀ j, j ≠ k → thermalOf u j = thermalOf s j) ∧
      (c < 95 ∨ old = .critical →
        u = { s with power := { s.power with temps := u.power.temps }, mem := { s.mem with thermal := u.mem.thermal } }) ∧
      (95 ≤ c → old ≠ .critical → ∀ f fd, f < 16 → fieldOf s f = some fd → onStack s fd k = true → fieldOf u f = none)

/-- PATROL_READ of a slot in which one bit of one word has flipped corrects and counts it: every byte reads as before and no flip
is left (09 R236, R240, R242). -/
def Obligations.PatrolCorrectsOneBit : Prop :=
  ∀ (s : State) (channel row w b g : Nat), channelRuns s channel = true → slotGranule s channel row = some g → memorySound s → w < 16 → b < 144 →
    ∃ u, exec (.patrolRead channel row [(w, BitVec.ofNat 144 (2 ^ b))]) s = .next u ∧ memorySound u ∧
      (∀ a, u.mem.bytes.read a = s.mem.bytes.read a) ∧
      u.mem.corrected = bumpUnit (wordUnit s (16 * g + w)) s.mem.corrected ∧
      u = { s with mem := u.mem } ∧ u.mem.retired = s.mem.retired

/-- What a summary's record says of one unit that corrected words (09 R240). -/
def summaryRecord (r : Fault16) (quarter : Nat) (p : (Nat × Nat × Nat × Nat) × Nat) : Prop :=
  r.cls = 0x01 ∧ r.status = .ok ∧ r.quarter = quarter ∧ r.unitClass = p.1.1 ∧ r.unitIndex = p.1.2.1 ∧ r.tile = p.1.2.2.1 ∧
  r.detail = BitVec.ofNat 512 p.2

/-- ROW_REPAIR of a failed row appends a repair entry and forgets the row's failures, or, with no spare row left, retires the page
and uses one of the channel's spare pages, or marks the channel when the fault is wider; CORRECTED_SUMMARY records a unit's
corrected words and starts the quarter's counts again (09 R240, R243 to R246). -/
def Obligations.RepairAndSummaryAct : Prop :=
  (∀ (s : State) (ch row spares : Nat), channelRuns s ch = true → rowFailed s ch row = true → (channelAt s ch).marked = false →
    wrapperTaken s (ch / 128) = false → ch < 512 → row < rowSlots → memorySound s →
    (∃ u, exec (.rowRepair ch row spares true) s = .next u ∧ channelAt u ch = { channelAt s ch with marked := true } ∧
      u = { s with mem := { s.mem with channels := u.mem.channels } }) ∧
    (s.mem.retired.length < 4096 → spares ≠ 0 → ∃ u e, exec (.rowRepair ch row spares false) s = .next u ∧
      u.mem.retired = s.mem.retired ++ [e] ∧ entryKind e = 1 ∧ entryChannel e = ch ∧ bits e.toNat 20 0 = row / 16 ∧
      (∀ n, s.mem.retireSeq = some n → bits e.toNat 47 32 = (n + 1) % 65536) ∧
      rowFailed u ch row = false ∧ u.mem.channels = s.mem.channels ∧ u.mem.bytes = s.mem.bytes) ∧
    (s.mem.retired.length < 4096 → (channelAt s ch).spares < 96 → ∃ u e, exec (.rowRepair ch row 0 false) s = .next u ∧
      u.mem.retired = s.mem.retired ++ [e] ∧ entryKind e = 2 ∧ entryChannel e = ch ∧ bits e.toNat 20 0 = row / 16 ∧
      rowFailed u ch row = false ∧ (channelAt u ch).spares = (channelAt s ch).spares + 1 ∧ u.mem.bytes = s.mem.bytes)) ∧
  (∀ (s : State) (q : Nat) (ports : List (Nat × Nat)), q < 4 →
    let mine := fun (p : (Nat × Nat × Nat × Nat) × Nat) => p.1.2.2.2 == q
    let plots := (ports.filter fun p => p.1 < 36 && 0 < p.2).map fun p => ((7, p.1, 0xFFF, q), p.2)
    let units := s.mem.corrected.filter mine ++ plots
    ∃ u, exec (.correctedSummary q ports) s = .next u ∧
      u = { s with mem := { s.mem with corrected := s.mem.corrected.filter fun p => !mine p }, mgmt := u.mgmt } ∧
      (units = [] → u.mgmt = s.mgmt) ∧
      (∀ p, units = [p] → ∃ r, summaryRecord r q p ∧ u.mgmt = (logFault s r).mgmt))

/-! ### Windows (01 R33; 09 R249, R252) -/

/-- A tile's write of a whole scan engine's or check-value unit's block with its reserved bits zero and no GO sets the fields that the
block marks writable and no other register; a firmware signal write adds to its word and pulses the word's wire, or waits for the ring
link that it would cross (01 R19, R33; 09 R249, R252; 11 R291). -/
def Obligations.WindowWritesSetRegisters : Prop :=
  (∀ (s : State) (t c q k : Nat) (data : List Byte), (ctxOf s t c).owner < 16 → t < 2304 → c < 16 → q < 4 → data.length = 64 →
    stackTop s ≤ windowBase → quarterHeld s q = false → ringReaches s (tileQuarter t) q = true →
    let v := leNat data
    (k < 2 → v &&& scanReserved = 0 → bit v 192 = false → (scanOf s q k).busy = false →
      exec (.registerWrite (.tile t c) (quarterWindow q + 0x30000 + 0x100 * k) data) s =
        .next (setScan s q k { scanOf s q k with
          start := bits v 41 0, stride := bits v 105 64, count := bits v 159 128, block16m1 := bits v 167 160
          initFirst := bit v 193, cvu := bits v 195 194 })) ∧
    (k < 4 → v &&& cvuReserved = 0 → 8 ≤ bits v 6 0 → bits v 6 0 ≤ 64 → (cvuOf s q k).busy = false →
      exec (.registerWrite (.tile t c) (quarterWindow q + 0x40000 + 0x100 * k) data) s =
        .next (setCvu s q k { cvuOf s q k with
          width := bits v 6 0, refin := bit v 9, refout := bit v 10, poly := BitVec.ofNat 64 (bits v 127 64)
          init := BitVec.ofNat 64 (bits v 191 128), xorout := BitVec.ofNat 64 (bits v 255 192)
          value := BitVec.ofNat 64 (bits v 319 256) }))) ∧
  (∀ (s : State) (p q w : Nat) (inc : BitVec 32), p < 10 → q < 4 → w < 4096 → quarterHeld s q = false → s.power.pllLocked = true →
    processorRuns s p = true →
    (ringReaches s (processorQuarter p) q = true → (attrOf s q w).field ≠ 0xFF → ∃ u, exec (.firmwareSignalWrite p q w inc) s = .next u ∧ signalOf u q w = signalOf s q w + inc ∧
      (∀ q' w', 4096 * q' + w' ≠ 4096 * q + w → signalOf u q' w' = signalOf s q' w') ∧
      (∀ x, SMap.get 0 u.sync.sent x = SMap.get 0 s.sync.sent x + if x = 64 * q + (attrOf s q w).wake then 1 else 0) ∧
      u = { s with sync := { s.sync with words := u.sync.words, sent := u.sync.sent } }) ∧
    (ringReaches s (processorQuarter p) q = false → ∃ x, exec (.firmwareSignalWrite p q w inc) s =
      .next { s with ports := { s.ports with stalled := s.ports.stalled ++ [.signal x (processorQuarter p) q w inc] } }))

/-! ### H0 (10) -/

/-- A request that a queue pair takes in its turn: H0 receives, the pair is ready, the PSN is the one expected, no packet carries a
CE mark, and the priority of RoCE may send (10 R257, R260, R262). -/
abbrev taken (s : State) (qpn psn i : Nat) (q : Qp) : Prop :=
  h0Receives s = true ∧ qpIndex qpn = some i ∧ qpOf s i = some q ∧ q.ready = true ∧ psn = q.psn ∧ q.psn < 2 ^ 24 ∧
  prioOpen s s.ports.net.rocePrio = true

/-- Nothing of the pair's waits, and its priority's buffer has room for a message's bytes (01 R19; 10 R259, R262). -/
abbrev unhindered (s : State) (i bytes : Nat) : Prop :=
  pairWaits s i = false ∧ bufferFull s s.ports.net.rocePrio bytes = false

/-- RDMA_WRITE in turn stores its bytes, moves the PSN on by its packets and sends an ACK to the MAC that the request came from;
one behind an operation that waits for a ring link waits too. RDMA_READ_REQUEST in turn sends the bytes read and moves the PSN
on, and a 17th outstanding is refused. A refused operation sends a NAK and leaves the pair in error; a rate notification halves
the pair's rate and a recovery adds to it. A key that is not the pair's fails a request (01 R19; 10 R255, R257 to R260). -/
def Obligations.QueuePairsServeRequests : Prop :=
  (∀ (s : State) (req : Rdma) (data : List Byte) (i : Nat) (q : Qp), taken s req.qpn req.psn i q → req.ce = false →
    bufferFull s s.ports.net.rocePrio data.length = false →
    let n := mtuPackets q.mtu data.length
    (req.rkey = q.rkey → pairWaits s i = false → data ≠ [] → req.addr + data.length ≤ stackTop s → stackTop s ≤ scratchBase →
      memorySound s → noBusy s → runCut s 0 req.addr data.length = false →
      ∃ u, exec (.rdmaWrite req data) s = .next u ∧ seeBytes u none req.addr data.length = data ∧
        memFrame s u (inRuns [(req.addr, data.length)]) ∧ qpOf u i = some { q with psn := (q.psn + n) % 2 ^ 24 } ∧
        u.out = .roce i req.mac ect0 (.ack ((q.psn + n - 1) % 2 ^ 24)) :: s.out) ∧
    (req.rkey = q.rkey → pairWaits s i = true → ∃ u, exec (.rdmaWrite req data) s = .next u ∧ u.mem = s.mem ∧
      u.ports.stalled = s.ports.stalled ++ [.write i req data] ∧ qpOf u i = some { q with psn := (q.psn + n) % 2 ^ 24 }) ∧
    (req.rkey ≠ q.rkey → ∃ u, exec (.rdmaWrite req data) s = .next u ∧ u.mem = s.mem ∧
      qpOf u i = some { q with state := .error, last := .range } ∧ u.out = .roce i req.mac ect0 .nakAccess :: s.out)) ∧
  (∀ (s : State) (req : Rdma) (len i : Nat) (q : Qp), taken s req.qpn req.psn i q → req.ce = false → req.rkey = q.rkey →
    unhindered s i 0 →
    (readsOutstanding s i < 16 → len ≠ 0 → req.addr + len ≤ stackTop s → stackTop s ≤ scratchBase → memorySound s → noBusy s →
      runCut s 0 req.addr len = false →
      ∃ u, exec (.rdmaReadRequest req len) s = .next u ∧ memFrame s u (fun _ => False) ∧
        qpOf u i = some { q with psn := (q.psn + mtuPackets q.mtu len) % 2 ^ 24 } ∧
        u.out = .roce i req.mac ect0 (.data q.psn (seeBytes s none req.addr len)) :: s.out) ∧
    (16 ≤ readsOutstanding s i → ∃ u, exec (.rdmaReadRequest req len) s = .next u ∧ u.mem = s.mem ∧
      qpOf u i = some { q with state := .error } ∧ u.out = .roce i req.mac ect0 .nakInvalid :: s.out)) ∧
  (∀ (s : State) (req : Rdma) (i : Nat) (q : Qp), taken s req.qpn req.psn i q → req.ce = false →
    bufferFull s s.ports.net.rocePrio 0 = false →
    ∃ u, exec (.roceRefusedOperation req) s = .next u ∧ u.mem = s.mem ∧ qpOf u i = some { q with state := .error } ∧
      u.out = .roce i req.mac ect0 .nakInvalid :: s.out) ∧
  (∀ (s : State) (qpn i : Nat) (q : Qp), qpIndex qpn = some i → qpOf s i = some q →
    (h0Receives s = true → ∃ u, exec (.cnpReceived qpn) s = .next u ∧ qpOf u i = some { q with rate := max 1 (q.rate / 2) } ∧
      u.mem = s.mem ∧ u.out = s.out) ∧
    exec (.readRateRecovery qpn) s = .next (setQp s i { q with rate := min 64 (q.rate + 1) }))

/-- H0 answers an ARP request, a neighbour solicitation and an echo for its own addresses, once each, counting a frame received and
one sent; a priority is paused and released by its frames; a dropped frame is counted by its cause; the 1.6 Tb/s rate is taken
up again (10 R255, R256, R262, R280). -/
def Obligations.FramesAreAnsweredAndCounted : Prop :=
  ∀ s : State, s.ports.h0State = .up →
    let count := fun (u : State) (k n : Nat) => SMap.get 0 u.ports.h0Counters k = wrapAdd 64 (SMap.get 0 s.ports.h0Counters k) n
    let answered := fun (i : Instr) (o : Out) => ∃ u, exec i s = .next u ∧ u.out = o :: s.out ∧ count u 0 1 ∧ count u 1 1 ∧
      u = { s with out := u.out, ports := { s.ports with h0Counters := u.ports.h0Counters } }
    (prioOpen s s.ports.net.mgmtPrio = true → ∀ (mac : BitVec 48) (vlan : Option (BitVec 12)), tagAccepted s vlan = true →
      (∀ a, mappedIpv4 a = s.ports.net.ipv4 → answered (.arpRequest mac vlan a) (.arp mac a)) ∧
      (∀ a, a ≠ 0 → a = s.ports.net.ipv6 → answered (.neighbourSolicitation mac vlan a) (.neighbour mac a)) ∧
      (∀ a data, a ≠ 0 → a = s.ports.net.ipv6 ∨ a = s.ports.net.ipv4 → answered (.icmpEcho mac vlan a data) (.echo mac a data))) ∧
    (∀ p pause, p < 8 → s.ports.net.pfc = true → s.ports.held = [] → ∃ u, exec (.pfcFrame p pause) s = .next u ∧
      prioOpen u p = !pause ∧ (∀ p', p' ≠ p → prioOpen u p' = prioOpen s p') ∧ count u 1 1 ∧ count u 10 1 ∧ u.out = s.out) ∧
    (∀ cause, ∃ u, exec (.droppedFrame cause) s = .next u ∧ count u 1 1 ∧ count u (if cause = .icrc then 9 else 8) 1 ∧
      u = { s with ports := { s.ports with h0Counters := u.ports.h0Counters } }) ∧
    (linkRuns s 0 = true → s.mgmt.service = .full → hostFull s = true → s.ports.h0Lanes = 1 → ∃ u, exec (.h0RateRetry true) s = .next u ∧
      u.ports.h0Lanes = 8 ∧ u.ports.h0State = .up ∧ count u 7 1 ∧
      u = { s with ports := { s.ports with h0Counters := u.ports.h0Counters, h0Lanes := 8 } })

/-! ### Power and heat (13) -/

/-- One iteration of the loop of a quarter that trusts its telemetry and whose average is full: it keeps the readings; over a budget or
at 100 °C the ladder goes to the next slower position that matters; eased for ten iterations it goes one position faster, no
faster than the warning floor; otherwise, and in a junction hold, it stays. The stack ladder follows the stack budget alone (13
R357, R365). -/
def quarterLoopMoves : Prop :=
  ∀ (s : State) (q : Nat) (r : LoopReading), q < 4 → processorRuns s (1 + q) = true → s.power.pllLocked = true →
    let x := quarterOf s q
    x.inService = true → x.inReset = false → x.distrust = false → x.disagree < 100 → x.filling = 0 → x.ladder < 10 →
    let y := x.sample r (estimateOf s q r)
    let hot := 100 ≤ r.hotC ∨ 100 ≤ r.hotB
    let cool := if y.eased = true ∧ r.hotC < 97 ∧ r.hotB < 97 then x.cool + 1 else 0
    let stackCool := if 100 * y.drawn 2 < 95 * y.limit 3 then x.stackCool + 1 else 0
    ∃ u, exec (.quarterLoopIteration q r) s = .next u ∧
      let z := quarterOf u q
      sensor u q = r.hotC ∧ sensor u (4 + q) = r.hotB ∧ z.power = y.power ∧ z.budgets = x.budgets ∧ z.cool = cool ∧
      (x.hold = true → z.ladder = x.ladder ∧ z.stackPos = x.stackPos) ∧
      (x.hold = false → y.exceeds = true ∨ hot → z.ladder = slower s q x.ladder ∧ x.ladder < z.ladder) ∧
      (x.hold = false → y.exceeds = false → ¬ hot →
        z.ladder = if 10 ≤ cool ∧ x.fastest < x.ladder then x.ladder - 1 else x.ladder) ∧
      (x.hold = false → z.stackPos = if y.limit 3 < y.drawn 2 then min 6 (x.stackPos + 1)
        else if 10 ≤ stackCool then x.stackPos - 1 else x.stackPos) ∧
      (∀ p, p ≠ q → quarterOf u p = quarterOf s p) ∧ u.mgmt = s.mgmt ∧
      u = { if q = 0 ∧ linkRuns s 0 = true then h0Return s r.fast else s with
        power := { s.power with quarters := u.power.quarters, temps := u.power.temps } }

/-- A droop stretches a plot until it recovers; a supply warning stretches the quarter, counts itself and, above eight within a
second, takes the warning floor; a recovery step moves the return on; a summary records the warnings and starts them again; the
junction limit holds the quarter at its slowest positions until its release; the thermal trip stops the package and resets every
field (13 R361, R362, R365, R366). -/
def powerEventsAct : Prop :=
  ∀ (s : State) (q : Nat), q < 4 →
    let x := quarterOf s q
    let recent := (x.warnTimes.filter fun t => s.power.sclk < t + 100000000) ++ [s.power.sclk]
    let plotSensor := fun (n : Nat) => n < 36 ∨ (0x40 ≤ n ∧ n < 0x50)
    let warnedOnce := fun (rail : Nat) => { x with
      warned := true, recovery := 10, warnings := x.warnings + 1, warnRails := x.warnRails ||| 2 ^ rail, warnTimes := recent }
    (∀ p, p < 144 → plotQuarter p = q → x.inService = true →
      exec (.droop p) s = .next { s with tiles := { s.tiles with droop := SMap.set false s.tiles.droop p true } }) ∧
    (∀ p, exec (.droopRecovery p) s = .next { s with tiles := { s.tiles with droop := SMap.set false s.tiles.droop p false } }) ∧
    (∀ rail, rail < 2 → x.inService = true →
      (x.floor = true ∨ recent.length ≤ 8 ∨ processorRuns s (1 + q) = false → exec (.supplyWarning q rail) s = .next (setQuarter s q (warnedOnce rail))) ∧
      (x.floor = false → 8 < recent.length → processorRuns s (1 + q) = true → ∃ u, exec (.supplyWarning q rail) s = .next u ∧
        quarterOf u q = { warnedOnce rail with floor := true, ladder := max 1 x.ladder } ∧
        ∃ r : Fault16, u.mgmt = (logFault s r).mgmt ∧ r.cls = 0x0D ∧ r.quarter = q ∧ r.detail = 0)) ∧
    (x.warned = true → exec (.warningRecoveryStep q) s = .next (setQuarter s q
      (if x.recovery - 1 ≤ x.ladder then { x with warned := false, recovery := 0 } else { x with recovery := x.recovery - 1 }))) ∧
    (0 < x.warnings → processorRuns s (1 + q) = true → x.floor = true ∨ recent.length ≤ 9 → ∃ u, exec (.warningSummary q) s = .next u ∧
      quarterOf u q = { x with warnings := 0, warnRails := 0 } ∧
      ∃ r : Fault16, u.mgmt = (logFault s r).mgmt ∧ r.cls = 0x0D ∧ r.quarter = q ∧
        r.detail = BitVec.ofNat 512 (x.warnRails + min 65535 x.warnings * 65536)) ∧
    (∀ n c, plotSensor n → 105 ≤ c → x.inService = true → ∃ u, exec (.junctionLimit q n c) s = .next u ∧
      quarterOf u q = { x with ladder := 10, stackPos := 6, hold := true, cool := 0, stackCool := 0 } ∧
      ∃ r : Fault16, u.mgmt = (logFault s r).mgmt ∧ r.cls = 0x0E ∧ r.unitIndex = n ∧ r.temp = c ∧ r.detail = 1) ∧
    exec (.junctionHoldRelease q) s =
      .next (if sensor s q < 100 ∧ sensor s (4 + q) < 100 then setQuarter s q { x with hold := false } else s) ∧
    (∀ n c, plotSensor n → 110 ≤ c → x.inService = true → s.power.tripped = false → ∃ u, exec (.thermalTrip q n c) s = .next u ∧
      u.power.tripped = true ∧ .thermtrip true ∈ u.out ∧ ∀ f, f < 16 → fieldOf u f = none)

/-- A quarter's loop moves its ladders by power and heat, and the events of supply and heat act on its quarter (13 R357, R361, R362,
R365, R366). -/
def Obligations.PowerAndHeatMoveQuarters : Prop := quarterLoopMoves ∧ powerEventsAct

/-! ### Resets and boot (01 R26; 14 R371 to R377; 15 R411, R412; 17 R436, R441) -/

/-- The slot that the ROM tries first holds a bundle that it accepts (14 R371, R372). -/
abbrev boots (s : State) (k : Nat) (b : Bundle) : Prop := (bootSlots s).head? = some k ∧ bundleAt s k = some b

/-- No field is loaded. -/
abbrev noFields (u : State) : Prop := ∀ f, f < 16 → fieldOf u f = none

/-- What a loss of power leaves: flash, fuses, the fault log, the retirement list and the weighbridge's partition; everything
else is as at power-on (14 R370; 15 R412; 16 R423). -/
def powerLost (s u : State) : Prop :=
  u.power.pwrgood = false ∧ u.mgmt.service = .off ∧ u.tiles = {} ∧ u.fields = {} ∧ u.sync = {} ∧ u.colls = [] ∧ u.units = {} ∧
  u.ports = {} ∧ u.mgmt.sessions = [] ∧ u.mgmt.buffer = [] ∧ u.mgmt.log = s.mgmt.log ∧ u.mgmt.slots = s.mgmt.slots ∧
  u.mgmt.fuses = s.mgmt.fuses ∧ u.mgmt.imageKey = s.mgmt.imageKey ∧ u.mgmt.standing = s.mgmt.standing ∧
  u.mgmt.sigNext = s.mgmt.sigEnd ∧ u.mem.retired = s.mem.retired ∧ u.mem.bytes.cells = [] ∧ u.wb.records = s.wb.records ∧
  u.power.sclk = 0 ∧ u.power.cap = 4800

/-- The causes of a package warm reset are noted until it is carried out; carried out, it ends every session and field, keeps the cap
and leaves the package in early service, running the release of the slot the ROM takes; so does the PLL's lock after a lost
reference, which holds the package off, unless a tripped package is still hot. TQ_PWRGOOD's fall and a low auxiliary rail lose what power loss loses; its rise boots to
early service at the reset cap. Full service starts with every quarter that trained and that Q0 reaches, and says so in the capability word; held by a refused
OPEN, the package trains and waits (01 R26; 13 R361; 14 R371 to R375, R380; 15 R411, R412; 17 R436, R441). -/
def Obligations.ResetsAndBootRestart : Prop :=
  ∀ s : State,
    (s.power.pwrgood = true →
      exec .warmResetInput s = .next (callWarm s .warmPin) ∧
      (∀ q rails, q < 4 → exec (.supplyReset q rails) s = .next { s with power := { s.power with
        warmDue := s.power.warmDue ++ (rails.filter (· < 2)).map (ResetCause.supply q) } }) ∧
      (∀ q r, q < 4 → r = 2 ∨ r = 3 → exec (.railOutOfRange (.low q r)) s = .next (callWarm s (.supply q r))) ∧
      (∀ q r, q < 4 → r < 4 → exec (.railOutOfRange (.high q r)) s = .next (callWarm s (.overVoltage q r))) ∧
      (∃ u, exec (.railOutOfRange .auxLow) s = .next u ∧ powerLost s u) ∧
      (∃ u, exec .tqPwrgoodFalling s = .next u ∧ powerLost s u) ∧
      (s.power.pllLocked = true → heldOff s = false → ∃ u, exec .referenceLoss s = .next u ∧ u.power.pllLocked = false ∧ u.mgmt.service = .off ∧
        u.mgmt.sessions = [] ∧ noFields u ∧ u.power.warmDue = s.power.warmDue ++ [.clockLoss] ∧ u.wb = s.wb.mark flagGap) ∧
      (∀ env k b, boots s k b → env.flashBad = [] → heldOff s = false →
        (s.power.pllLocked = false → ∃ u, exec (.pllRelock env) s = .next u ∧ u.power.pllLocked = true ∧ u.mgmt.service = .early ∧
          u.mgmt.release = b.release ∧ u.power.warmDue = []) ∧
        (s.power.pllLocked = true → s.power.warmDue ≠ [] →
          ∃ u, exec (.packageWarmReset env) s = .next u ∧ u.mgmt.service = .early ∧ u.mgmt.release = b.release ∧
            u.power.warmDue = [] ∧ u.mgmt.sessions = [] ∧ noFields u ∧ u.power.cap = s.power.cap ∧ u.power.tripped = false))) ∧
    (∀ env k b, s.power.pwrgood = false → boots s k b → env.flashBad = [] → ∃ u, exec (.powerOnReset env) s = .next u ∧ u.power.pwrgood = true ∧
      u.mgmt.service = .early ∧ u.mgmt.release = b.release ∧ u.power.sclk = 0 ∧ u.power.cap = 4800 ∧ noFields u ∧
      bits u.mgmt.capWord.toNat 15 0 = u.mem.live.length ∧
      ((quarterOf u 0).inService = true ↔ ¬ env.badQuarters.contains 0 = true) ∧ ∀ q, 0 < q → q < 4 → (quarterOf u q).inService = false) ∧
    (∀ env, s.power.pllLocked = true → s.power.tripped = false → processorRuns s 0 = true → s.mgmt.trained = none →
      let qs := trainedQuarters s env
      (s.mgmt.service = .early → s.mgmt.standMark = none → s.ports.stalled = [] → reachedQuarters (trainRing s env) qs = [0, 1, 2, 3] →
        ∃ u, exec (.fullServiceEntry env) s = .next u ∧ u.mgmt.service = .full ∧ u.mgmt.passage = true ∧ noFields u ∧
          u.mgmt.sessions = s.mgmt.sessions ∧ (∀ q, q < 4 → (quarterOf u q).inService = true) ∧
          u.mem.live = liveOf u [0, 1, 2, 3] ∧ bits u.mgmt.capWord.toNat 15 0 = u.mem.live.length ∧
          bits u.mgmt.capWord.toNat 19 16 = 15) ∧
      (s.mgmt.service = .earlyHeld → ∃ u, exec (.fullServiceEntry env) s = .next u ∧ u.mgmt.service = .earlyHeld ∧
        u.mgmt.trained = some qs))

/-- A compute-die reset ends the die's fields, leaves its scratchpads without contents and is recorded; a processor's watchdog
restarts that processor alone, the management processor ending its sessions, until its restart ends; the standing image, the next
bottom tree and the fault log go to flash in the background (02 R66; 14 R376, R377, R389; 15 R393, R411, R412). -/
def Obligations.FirmwareRestartsAndFlushes : Prop :=
  ∀ s : State,
    (∀ q, q < 4 → (quarterOf s q).inService = true → ∃ v r, exec (.computeDieReset q) s = .next (logFault v r) ∧
      r.cls = 0x0F ∧ r.detail = 8 ∧ r.quarter = q ∧
      (∀ f fd, f < 16 → fieldOf s f = some fd → fd.quarters.contains q = true → fieldOf v f = none) ∧
      (∀ a, padAddr (576 * q) 0 ≤ a → a < padAddr (576 * q + 576) 0 → cellAt v.mem.bytes.cells a = none ∧ v.mem.bytes.unlisted a = none)) ∧
    (∀ p, p < 9 → processorRuns s p = true → s.mgmt.service = .early ∨ s.mgmt.service = .earlyHeld ∨ s.mgmt.service = .full →
      let before := (SMap.get [] s.mgmt.restarts p).filter fun t => s.power.sclk < t + 60000000000
      before.length < 3 → ∃ u, exec (.watchdogExpiry p) s = .next u ∧ processorRuns u p = false ∧
        (∀ o, o ≠ p → processorRuns u o = processorRuns s o) ∧ SMap.get [] u.mgmt.restarts p = before ++ [s.power.sclk] ∧
        u.mem = s.mem ∧ u.fields = s.fields ∧ u.tiles = s.tiles ∧
        u.mgmt.sessions = (if p = 0 then [] else s.mgmt.sessions) ∧ (p = 0 → u.mgmt.sigNext = s.mgmt.sigEnd) ∧
        ∃ r : Fault16, u.mgmt.buffer = (logFault s r).mgmt.buffer ∧ r.cls = 0x0F ∧ r.unitClass = 0x10 ∧ r.unitIndex = p ∧ r.detail = 3) ∧
    (∀ p, 0 < p → p < 9 → processorRuns s p = false → s.mgmt.parked = [] → s.ports.stalled = [] →
      ∃ u, exec (.processorRestartEnd p) s = .next u ∧ processorRuns u p = true ∧
        u = noteBuffers { s with mgmt := { s.mgmt with restarting := u.mgmt.restarting } }) ∧
    (processorRuns s 0 = false → s.mgmt.waiting = [] → ∃ u, exec (.processorRestartEnd 0) s = .next u ∧ processorRuns u 0 = true ∧
      (∀ q, q < 4 → (quarterOf u q).budgets = budgetsOf s.power.cap (SMap.get {} s.fields.splits q))) ∧
    (s.wb.restarting = true → s.wb.waiting = [] →
      exec (.processorRestartEnd 9) s = .next { s with wb := { s.wb with restarting := false, waiting := [] } }) ∧
    (∀ bs, s.mgmt.standWrite = some bs → processorRuns s 0 = true → ∃ u k, exec .standingImageWrite s = .next u ∧
      k < 2 ∧ s.mgmt.standMark ≠ some k ∧ SMap.get none u.mgmt.standing k = some ⟨bs⟩ ∧
      (∀ j, j ≠ k → SMap.get none u.mgmt.standing j = SMap.get none s.mgmt.standing j) ∧
      u = { s with mgmt := { s.mgmt with standing := u.mgmt.standing, standMark := some k, standWrite := none } }) ∧
    (s.power.pwrgood = true → processorRuns s 0 = true → s.mgmt.trees ≤ s.mgmt.sigNext / 2 ^ 20 + 1 → s.mgmt.trees < 2 ^ 20 →
      exec .bottomTreeBuild s = .next { s with mgmt := { s.mgmt with trees := s.mgmt.trees + 1 } }) ∧
    (processorRuns s 0 = true → s.mgmt.service = .early ∨ s.mgmt.service = .earlyHeld ∨ s.mgmt.service = .full →
      s.mgmt.log.length + s.mgmt.buffer.length ≤ 32768 → s.mgmt.lostFaults = 0 →
      exec .faultLogFlush s = .next { s with mgmt := { s.mgmt with log := s.mgmt.log ++ s.mgmt.buffer, buffer := [] } })

/-! ### The mailbox (14) -/

/-- A message from a source reaches the management processor: the package serves messages, the processor runs, and the transport and
the permitted sources let it through, leaving the state r (14 R378, R380, R384 SET_NET; 10 R263). -/
def hears (s r : State) (m : Mail) : Prop :=
  s.mgmt.service ≠ .off ∧ s.mgmt.service ≠ .recovery ∧ processorRuns s 0 = true ∧ receiveMail s m.src m.via = (r, true)

/-- A request reaches the processor in a session of its source that executes nothing and has not just completed it, the processors
that act on it run, and no request waits for one of them (14 R376, R381). -/
def reaches (s r : State) (m : Mail) : Prop :=
  hears s r m ∧ (∀ p, p < 9 → processorRuns s p = true) ∧ s.mgmt.parked = [] ∧ ∃ x, sessionOf s m.src = some x ∧ x.executing = none ∧ ∀ q bs, x.last = some (q, bs) → q ≠ m.seq

/-- A payload of at least n bytes, zero beyond them (14 R382). -/
abbrev carries (m : Mail) (n : Nat) : Prop := n ≤ m.payload.length ∧ m.payload.length ≤ 4096 ∧ ∀ b ∈ m.payload.drop n, b = 0

/-- A row is answered with a status and bytes, after its effect has left the state v. -/
def answers (i : Instr) (s v : State) (m : Mail) (type : Nat) (st : Status) (bs : List Byte) : Prop :=
  ∃ x, sessionOf s m.src = some x ∧ exec i s = .next (complete v m.src m.via.mac x.minor type m.seq st bs)

/-- A completed request's reply is kept in its session, which executes nothing then, and goes out to its source at once: over UDP to the
MAC address of the request's frame, when H0 is up and the management priority may send; over MCTP in a vendor-defined message;
other sessions are as they were. The reply has the request's TYPE with
bit 15 set, its SEQUENCE, its payload's length and CRC-32C, and the status (14 R378, R379, R381, R382; 10 R255, R263). -/
def repliesAreKept : Prop :=
  ∀ (v : State) (src : Src) (mac : BitVec 48) (minor type : Nat) (seq : BitVec 32) (st : Status) (bs : List Byte), type < 0x8000 → bs.length < 65536 →
    let u := complete v src mac minor type seq st bs
    let rep := replyBytes minor type seq st bs
    (∀ x, sessionOf v src = some x → sessionOf u src = some { x with last := some (seq, rep), executing := none }) ∧
    (∀ src', src' ≠ src → sessionOf u src' = sessionOf v src') ∧
    (∀ a p, src = .udp a p → v.ports.h0State = .up → prioOpen v v.ports.net.mgmtPrio = true → u.out = .reply src mac rep :: v.out) ∧
    (∀ e, src = .mctp e → u.out = .reply src 0 (mctpBytes v rep) :: v.out) ∧
    u.mem = v.mem ∧ u.fields = v.fields ∧ u.tiles = v.tiles ∧ u.power = v.power ∧
    field rep 2 2 = type + 0x8000 ∧ field rep 4 4 = seq.toNat ∧ field rep 8 4 = rep.length - 16 ∧
    field rep 12 4 = crc crc32c (rep.take 12 ++ rep.drop 16) ∧ field rep 16 2 = st.code ∧
    (st = .ok → rep.drop 20 = bs) ∧ (st ≠ .ok → rep.length = 20)

/-- A repeated SEQUENCE is answered from the session, a request without a session is refused with E_VERSION, and neither acts; one that
needs a processor that restarts is checked, and waits in its session; a long operation is refused with E_BUSY while another one waits
so (14 R376, R380, R381). -/
def requestsNeedSessions : Prop :=
  ∀ (s r : State) (i : Instr) (q : Request), requestOf i = some q → q.mine = true → q.mail.payload.length ≤ 4096 →
    hears s r q.mail →
    (∀ x rep, sessionOf s q.mail.src = some x → x.executing = none → x.last = some (q.mail.seq, rep) →
      exec i s = .next (sendMail r q.mail.src q.mail.via.mac rep)) ∧
    (∀ x, sessionOf s q.mail.src = some x → x.executing = some q.mail.seq → exec i s = .next r) ∧
    (sessionOf s q.mail.src = none →
      exec i s = .next (sendMail r q.mail.src q.mail.via.mac (replyBytes ownMinor q.type q.mail.seq .version []))) ∧
    (∀ x, sessionOf s q.mail.src = some x → x.executing = none → (∀ n bs, x.last = some (n, bs) → n ≠ q.mail.seq) → q.check r = .ok →
      (∃ p ∈ q.needs r, processorRuns s p = false) → ∃ u, exec i s = .next u ∧ u.mgmt.parked = s.mgmt.parked ++ [i] ∧
        sessionOf u q.mail.src = some { x with executing := some q.mail.seq } ∧
        u = { r with mgmt := { r.mgmt with sessions := u.mgmt.sessions, parked := u.mgmt.parked } }) ∧
    (∀ x, sessionOf s q.mail.src = some x → x.executing = none → (∀ n bs, x.last = some (n, bs) → n ≠ q.mail.seq) → q.spare = false →
      carries q.mail q.need → longTypes.contains q.type = true → s.mgmt.parked.any isLong = true →
      exec i s = .next (complete (q.refused r) q.mail.src q.mail.via.mac x.minor q.type q.mail.seq .busy []))

/-- OPEN opens its source's session and answers versions, identity and service state; CLOSE ends it; READ_RESULT answers part of the
result kept for a SEQUENCE; a message that fails its checks is dropped and counted (14 R379, R380, R383). -/
def sessionsOpenAndClose : Prop :=
  ∀ (s r : State) (m : Mail),
    (hears s r m → carries m 8 → m.major = 1 → (∃ x, sessionOf s m.src = some x) ∨ s.mgmt.sessions.length < 8 →
      (∀ x, sessionOf s m.src = some x → x.executing = none ∧ ∀ q bs, x.last = some (q, bs) → q ≠ m.seq) →
      let minor := min m.minor ownMinor
      ∃ v, exec (.openSession m) s = .next (complete v m.src m.via.mac minor 0x0001 m.seq .ok
          (leBytes 1 1 ++ leBytes 1 minor ++ zeros 2 ++ leBytes 4 s.mgmt.release.toNat ++ leBytes 4 Config.romVersion.toNat
            ++ leBytes 8 s.mgmt.fuses.serial.toNat ++ leBytes 8 s.mgmt.capWord.toNat
            ++ leBytes 1 (if s.mgmt.service = .full then 1 else 0))) ∧
        sessionOf v m.src = some { src := m.src, minor := minor } ∧
        (∀ src', src' ≠ m.src → sessionOf v src' = sessionOf s src') ∧
        v = { r with mgmt := { r.mgmt with
          sessions := v.mgmt.sessions, service := if s.mgmt.service = .earlyHeld then .early else s.mgmt.service } }) ∧
    (reaches s r m → carries m 0 → ∃ v, answers (.closeSession m) s v m 0x0002 .ok [] ∧ sessionOf v m.src = none ∧
      (∀ src', src' ≠ m.src → sessionOf v src' = sessionOf s src') ∧
      v = { r with mgmt := { r.mgmt with sessions := v.mgmt.sessions } }) ∧
    (reaches s r m → carries m 12 → ∀ x, sessionOf s m.src = some x →
      let off := field m.payload 4 4
      let n := field m.payload 8 4
      (x.resultSeq = some (BitVec.ofNat 32 (field m.payload 0 4)) → off < x.result.length → 1 ≤ n → n ≤ 4088 →
        answers (.readResult m) s r m 0x0003 .ok (leBytes 4 x.result.length ++ (x.result.drop off).take n)) ∧
      (x.resultSeq ≠ some (BitVec.ofNat 32 (field m.payload 0 4)) ∨ x.result.length ≤ off ∨ n < 1 ∨ 4088 < n →
        answers (.readResult m) s r m 0x0003 .range [])) ∧
    (∀ raw, hears s r m → badMessage raw = true →
      exec (.droppedMessage m.src m.via raw) s = .next { r with mgmt := { r.mgmt with dropped := r.mgmt.dropped + 1 } })

/-- The mailbox opens and closes sessions, serves a request once and keeps its reply, and drops what is malformed (14 R379 to
R383). -/
def Obligations.MailboxServesSessions : Prop := repliesAreKept ∧ requestsNeedSessions ∧ sessionsOpenAndClose

/-- SET_CAP within its range sets the cap and divides it anew; the power states are taken, rest only while no work runs; RESET of a
field ends it and its crops, of a quarter holds the quarter and is answered later, of the package answers first; RESTART_PROC
answers first; the queue pair messages make, move and remove a pair; SET_NET stores and applies its configuration (10 R261; 13
R352 to R354; 14 R376, R384; 15 R411, R413). -/
def Obligations.MessagesSetTheDevice : Prop :=
  ∀ (s r : State) (m : Mail), reaches s r m →
    let b := fun (k : Nat) => field m.payload k 1
    (carries m 2 → let cap := field m.payload 0 2
      (1800 ≤ cap → cap ≤ 5200 → ∃ v, answers (.setCap m) s v m 0x0020 .ok (leBytes 2 cap) ∧
        v = { r with power := { r.power with cap := cap, quarters := v.power.quarters } } ∧
        ∀ q, quarterOf v q = { quarterOf r q with
          budgets := if q < 4 then budgetsOf cap (SMap.get {} r.fields.splits q) else (quarterOf r q).budgets }) ∧
      (cap < 1800 ∨ 5200 < cap → answers (.setCap m) s r m 0x0020 .range [])) ∧
    (s.mgmt.service = .full → carries m 1 →
      (b 0 = 0 → ∃ v, answers (.setPowerStateRun m) s v m 0x0021 .ok [] ∧ v.power.state = .run ∧
        (s.power.state ≠ .rest → v = { r with power := { r.power with state := .run } }) ∧
        (s.power.state = .rest → ∀ a, padAddr 0 0 ≤ a → a < padAddr 2304 0 → v.mem.bytes.read a = 0)) ∧
      (b 0 = 1 → ∃ v, answers (.setPowerStateIdle m) s v m 0x0021 .ok [] ∧ v.power.state = .idle ∧
        (s.power.state ≠ .rest → v = { r with power := { r.power with state := .idle } })) ∧
      (b 0 = 2 → (restAllowed s = true →
          answers (.setPowerStateRest m) s { r with power := { r.power with state := .rest } } m 0x0021 .ok []) ∧
        (restAllowed s = false → answers (.setPowerStateRest m) s r m 0x0021 .busy []))) ∧
    (carries m 2 →
      (b 0 = 0 → b 1 < 16 → (fieldOf s (b 1)).isSome = true → ∃ v, answers (.resetField m) s v m 0x0022 .ok [] ∧
        fieldOf v (b 1) = none ∧ ∀ g, g < 16 → g ≠ b 1 → fieldOf v g = if g ∈ cropsOver s (b 1) then none else fieldOf s g) ∧
      (b 0 = 0 → 16 ≤ b 1 ∨ fieldOf s (b 1) = none → answers (.resetField m) s r m 0x0022 .range []) ∧
      (b 0 = 1 → b 1 < 4 → (quarterOf s (b 1)).inService = true → ∃ u x, exec (.resetQuarter m) s = .next u ∧
        sessionOf s m.src = some x ∧ sessionOf u m.src = some { x with executing := some m.seq } ∧
        (quarterOf u (b 1)).inReset = true ∧
        SMap.get [] u.mgmt.resetReply (b 1) = SMap.get [] s.mgmt.resetReply (b 1) ++ [(m.src, m.via.mac, m.seq)] ∧
        ∀ f fd, f < 16 → fieldOf s f = some fd → fd.quarters.contains (b 1) = true ∨ hasGranule s fd (b 1) = true → fieldOf u f = none) ∧
      (b 0 = 2 → b 1 = 0 → ∃ x, sessionOf s m.src = some x ∧
        exec (.resetPackageWarm m) s = .next (callWarm (complete r m.src m.via.mac x.minor 0x0022 m.seq .ok []) .message))) ∧
    (carries m 1 → b 0 ≤ 8 → ∃ x, sessionOf s m.src = some x ∧
      exec (.restartProc m) s = .next (restartProcessor (complete r m.src m.via.mac x.minor 0x0023 m.seq .ok []) (b 0) 5)) ∧
    (let n := field m.payload 0 2
     (carries m 32 → b 3 = 0 → b 11 = 0 → b 15 = 0 → n < 256 → 1 ≤ b 2 → b 2 ≤ 3 →
      (qpOf s n = none → answers (.qpCreate m) s (setQp r n {
          state := .rtr, mtu := b 2, rkey := BitVec.ofNat 32 (field m.payload 4 4), remoteQpn := field m.payload 8 3
          psn := field m.payload 12 3, addr := netAddr m.payload 16 })
        m 0x0050 .ok []) ∧
      (qpOf s n ≠ none → answers (.qpCreate m) s r m 0x0050 .busy [])) ∧
     (carries m 3 → ∀ q, n < 256 → qpOf s n = some q →
      (b 2 = 3 → q.state = .rtr → answers (.qpModify m) s (setQp r n { q with state := .rts }) m 0x0051 .ok []) ∧
      (b 2 = 4 → q.state = .rtr ∨ q.state = .rts → answers (.qpModify m) s (setQp r n { q with state := .error }) m 0x0051 .ok [])) ∧
     (carries m 2 → n < 256 → (qpOf s n).isSome = true → ∃ v, answers (.qpDestroy m) s v m 0x0052 .ok [] ∧ qpOf v n = none ∧
      (∀ j, j ≠ n → qpOf v j = qpOf s j) ∧ v = { r with ports := { r.ports with qps := v.ports.qps } })) ∧
    (carries m (setNetNeed m.payload) → (setNetRequest m).spare = false → b 34 ≤ 7 → b 35 ≤ 7 → b 40 ≤ 8 →
      ∃ v, answers (.setNet m) s v m 0x0053 .ok [] ∧ v.mgmt.netRecord = some (netOf r m.payload) ∧
        v.ports.net = { netOf r m.payload with
          udpPort := if (netOf r m.payload).udpPort = 0 then s.ports.boardPort else (netOf r m.payload).udpPort })

/-- LOAD_IMAGE of an image that reads and validates applies it: its fields are loaded under its IMAGE_ID, those of a full image alone;
a removal image removes its field; one that does not validate is refused. A standing image waits to be written; CLEAR_STANDING takes
both back. ENROLL_IMAGE_KEY sets the key when the record is for this part and, with a key enrolled, signed by it (02 R59, R61 to
R63, R66; 14 R384, R390). -/
def imagesAreLoaded : Prop :=
  ∀ (s r : State) (m : Mail), reaches s r m →
    let addr := stackAddr m.payload 0
    let len := field m.payload 8 4
    let standing := bit (field m.payload 12 1) 0
    (carries m 13 → addrSpare m.payload 0 = false → field m.payload 12 1 < 2 → loadOrder1 r addr len = .ok →
      ∀ v bs, firmwareRead (shrinkLoft r) addr len = (v, bs, .ok) →
        let i := Img.parse bs
        (loadOrder3 v i standing = .ok → ∃ u, answers (.loadImage m none) s u m 0x0010 .ok
            (leBytes 8 i.id.toNat ++ leBytes 1 (if s.mgmt.imageKey = none then 0 else 1)) ∧
          (i.removal = false → ∀ f ∈ i.fieldList, fieldOf u f = some (i.field f) ∧ SMap.get 0 u.fields.imageIds f = i.id) ∧
          (i.removal = true → ∀ f ∈ i.fieldList, fieldOf u f = none) ∧
          (i.partial_ = false → ∀ f, f < 16 → f ∉ i.fieldList → fieldOf u f = none) ∧
          u.mgmt.standWrite = (if standing = true then some bs else s.mgmt.standWrite)) ∧
        (loadOrder3 v i standing ≠ .ok → answers (.loadImage m none) s v m 0x0010 (loadOrder3 v i standing) [])) ∧
    (carries m 0 → answers (.clearStanding m) s { r with mgmt := { r.mgmt with standMark := none, standWrite := none } } m 0x0011 .ok []) ∧
    (carries m 12 → addrSpare m.payload 0 = false → 72 ≤ len → ∀ v bs, firmwareRead r addr len = (v, bs, .ok) →
      field bs 0 4 = 0x4B505552 → field bs 4 8 = s.mgmt.fuses.serial.toNat →
      let key := slice bs 12 60
      let new := if key.all (· == 0) then none else some key
      (s.mgmt.imageKey = none ∨ (∃ old, s.mgmt.imageKey = some old ∧ hssOk .image old (bs.take 72) (bs.drop 72) = true) →
        answers (.enrollImageKey m) s { v with mgmt := { v.mgmt with imageKey := new } } m 0x0012 .ok (keyDigest new)) ∧
      (∀ old, s.mgmt.imageKey = some old → hssOk .image old (bs.take 72) (bs.drop 72) = false →
        answers (.enrollImageKey m) s v m 0x0012 .signature []))

/-- FW_UPDATE and FW_COMMIT mark the inactive slot for the next boot when the ROM accepts its bundle, and are refused with E_SIGNATURE
when it does not; FW_WRITE writes the inactive slot; FW_ACCEPT raises the fused security version to that of the bundle running;
TEST_CHALLENGE gives a nonce, and TEST_UNLOCK uses it up, opening its scopes when the token verifies (14 R372, R385, R392). -/
def firmwareIsUpdated : Prop :=
  ∀ (s r : State) (m : Mail), reaches s r m →
    let off := field m.payload 0 4
    let data := (m.payload.drop 4).take 4000
    let slot := 1 - s.mgmt.active
    let scope := field m.payload 0 4
    (carries m 12 → addrSpare m.payload 0 = false → field m.payload 8 4 ≤ 0x1000000 →
      ∀ v bs, firmwareRead r (stackAddr m.payload 0) (field m.payload 8 4) = (v, bs, .ok) →
      (bundleAuthentic v bs = true → s.mgmt.fuses.security ≤ Config.bundleSecurity bs →
        ∃ u, answers (.fwUpdate m) s u m 0x0070 .ok (leBytes 4 (Config.bundleRelease bs).toNat) ∧ u.mgmt.pendingFw = some slot ∧
          (∃ k, SMap.get none u.mgmt.slots slot = some k ∧ k.bytes = bs ∧ k.authentic = true) ∧
          ∀ j, j ≠ slot → SMap.get none u.mgmt.slots j = SMap.get none s.mgmt.slots j) ∧
      (bundleAuthentic v bs = false ∨ Config.bundleSecurity bs < s.mgmt.fuses.security →
        answers (.fwUpdate m) s v m 0x0070 .signature [])) ∧
    (4 ≤ m.payload.length → carries m (min 4004 m.payload.length) → off % 16 = 0 → off + data.length ≤ 0x1000000 →
      ∃ u k, answers (.fwWrite m) s u m 0x0071 .ok [] ∧ SMap.get none u.mgmt.slots slot = some k ∧
        (∀ j, j < data.length → k.bytes.getD (off + j) 0 = data.getD j 0) ∧
        (∀ j, j < off ∨ off + data.length ≤ j → ∀ o, SMap.get none s.mgmt.slots slot = some o → j < o.bytes.length →
          k.bytes.getD j 0 = o.bytes.getD j 0) ∧
        u = { r with mgmt := { r.mgmt with slots := u.mgmt.slots } } ∧
        ∀ j, j ≠ slot → SMap.get none u.mgmt.slots j = SMap.get none s.mgmt.slots j) ∧
    (carries m 0 →
      (∀ k, SMap.get none s.mgmt.slots slot = some k → k.authentic = true → s.mgmt.fuses.security ≤ k.security →
        answers (.fwCommit m) s { r with mgmt := { r.mgmt with pendingFw := some slot } } m 0x0072 .ok (leBytes 4 k.release.toNat)) ∧
      (SMap.get none s.mgmt.slots slot = none → answers (.fwCommit m) s r m 0x0072 .signature []) ∧
      (∀ k, s.mgmt.bundle = some k → s.mgmt.service = .full →
        let version := max s.mgmt.fuses.security k.security
        answers (.fwAccept m) s { r with mgmt := { r.mgmt with fuses := { r.mgmt.fuses with security := version } } } m 0x0073 .ok
          (leBytes 4 version)) ∧
      (∃ n, answers (.testChallenge m) s { r with mgmt := { r.mgmt with challenge := some n }, fresh := r.fresh + 1 } m 0x0080 .ok
        (digestBytes n ++ leBytes 8 s.mgmt.fuses.serial.toNat))) ∧
    (carries m 1620 → scope < 16 →
      (s.mgmt.challenge = none → answers (.testUnlock m) s r m 0x0081 .signature []) ∧
      (∀ n, s.mgmt.challenge = some n →
        let good := hssOk .test (horxaKey r testKey) (testMessage r n scope) (slice m.payload 4 1616)
        (good = true → ∃ u, answers (.testUnlock m) s u m 0x0081 .ok (leBytes 4 (s.mgmt.scopes ||| scope)) ∧
          u.mgmt.scopes = s.mgmt.scopes ||| scope ∧ u.mgmt.challenge = none ∧ u = { r with mgmt := u.mgmt }) ∧
        (good = false →
          answers (.testUnlock m) s { r with mgmt := { r.mgmt with challenge := none } } m 0x0081 .signature [])))

/-- Images, keys, firmware and test access come in by their messages (02 R61 to R66; 14 R384, R385, R390, R392). -/
def Obligations.MessagesLoadImagesAndFirmware : Prop := imagesAreLoaded ∧ firmwareIsUpdated

/-- READ_FAULTS and READ_RETIREMENTS answer records from a place on; GET_CERT and ATTEST leave a result, the latter a quote signed under the
next index (09 R245; 14 R387, R388, R391; 15 R393). -/
def recordsAreRead : Prop :=
  ∀ (s r : State) (m : Mail), reaches s r m →
    let left := fun (v u : State) (bs : List Byte) =>
      u = withSession v m.src fun x => { x with result := bs.take 16384, resultSeq := some m.seq }
    (carries m 8 → answers (.readFaults m) s r m 0x0030 .ok
      ((((s.mgmt.log ++ s.mgmt.buffer).filter fun f => field m.payload 0 8 ≤ f.number).take 12).flatMap
        (Fault16.bytes s.mgmt.fuses.serial))) ∧
    (carries m 2 → let l := (s.mem.retired.drop (field m.payload 0 2)).take 511
      answers (.readRetirements m) s r m 0x0031 .ok
        (leBytes 2 l.length ++ leBytes 2 s.mem.retired.length ++ l.flatMap fun e => leBytes 8 e.toNat)) ∧
    (carries m 0 → ∃ u, answers (.getCert m) s u m 0x0040 .ok (leBytes 4 ((certified r).take 16384).length) ∧
      left r u (certified r)) ∧
    (carries m 32 → ∀ k v, takeIdentity r = .ok (k, v) →
      let quote := quoteBody r (slice m.payload 0 32)
      let result := quote ++ slice (Config.identitySign k quote) 0 5716
      k = s.mgmt.sigNext ∧ v.mgmt.sigNext = k + 1 ∧
      ∃ u, answers (.attest m) s u m 0x0041 .ok (leBytes 4 (result.take 16384).length) ∧ left v u result)

/-- DIAG_RUN tests the tiles of a free quarter and quarantines those that fail, loses and tests a free range of stack memory, or reads
one; PATTERN_PACK installs a pack that verifies, runs it on a quarter without main fields, or removes it (14 R384; 15 R400,
R402). -/
def testsAreRun : Prop :=
  ∀ (s r : State) (m : Mail), reaches s r m →
    let b := fun (k : Nat) => field m.payload k 1
    let a := stackAddr m.payload 8
    let n := field m.payload 16 8
    (carries m 24 → field m.payload 2 6 = 0 → addrSpare m.payload 8 = false →
      (∀ fails, b 0 = 0 → b 1 < 4 → (quarterOf s (b 1)).inService = true →
        (∀ f fd, f < 16 → fieldOf s f = some fd → fd.quarters.contains (b 1) = false) →
        let bad := ((fails.map TileFailure.tile).filter fun t => tileQuarter t == b 1 && !quarantined s t).eraseDups
        ∃ u, answers (.diagRunTileTest m fails) s u m 0x0060 .ok (leBytes 4 bad.length) ∧
          ∀ t, quarantined u t = (quarantined s t || bad.contains t)) ∧
      (∀ fails, b 0 = 1 → a + n ≤ stackTop s → runBusy s a n = false →
        (∀ f fd, f < 16 → fieldOf s f = some fd → fd.base + fd.size ≤ a ∨ a + n ≤ fd.base) →
        let bad := (fails.filter fun x => a ≤ x && x < a + n).eraseDups
        ∃ u, answers (.diagRunDestructive m fails) s u m 0x0060 .ok (leBytes 4 bad.length) ∧
          (∀ x, a ≤ x → x < a + n → cellAt u.mem.bytes.cells x = none) ∧ u.mem.bytes.era = s.mem.bytes.era + 1 ∧
          (bad = [] → u.mgmt = s.mgmt)) ∧
      (b 0 = 2 → a + n ≤ stackTop s → runBusy s a n = false → memorySound s →
        ∃ u, answers (.diagRunReadCheck m) s u m 0x0060 .ok (leBytes 4 0) ∧ memFrame r u (fun _ => False))) ∧
    (carries m 14 → s.mgmt.service = .full → addrSpare m.payload 0 = false →
      (b 12 = 0 → 64 ≤ field m.payload 8 4 → field m.payload 8 4 ≤ 0x100000 + 65536 →
        ∀ v bs, firmwareRead r (stackAddr m.payload 0) (field m.payload 8 4) = (v, bs, .ok) →
        (packStatus v bs = .ok → answers (.patternPackInstall m) s { v with mgmt := { v.mgmt with pack := some (packOf bs) } } m
          0x0061 .ok (leBytes 4 (packOf bs).items.length)) ∧
        (packStatus v bs ≠ .ok → answers (.patternPackInstall m) s v m 0x0061 (packStatus v bs) [])) ∧
      (b 12 = 1 → b 13 < 4 → (quarterOf s (b 13)).inService = true → mainOn s (b 13) = false → ∀ fails,
        (s.mgmt.pack = none → answers (.patternPackRunNow m fails) s r m 0x0061 .ok (leBytes 4 0 ++ leBytes 4 0)) ∧
        (∀ p, s.mgmt.pack = some p →
          let bad := (fails.filter (realFailure r p (b 13))).eraseDups
          ∃ u, answers (.patternPackRunNow m fails) s u m 0x0061 .ok (leBytes 4 p.items.length ++ leBytes 4 bad.length) ∧
            ∀ t, (∀ x ∈ bad, x.tile ≠ t) → levelOf u t = levelOf s t)) ∧
      (b 12 = 2 → field m.payload 0 12 = 0 →
        answers (.patternPackRemove m) s { r with mgmt := { r.mgmt with pack := none } } m 0x0061 .ok []))

/-- Records and attestation are read, and tests are run, by their messages (14 R384, R387 to R391; 15 R393, R400, R402). -/
def Obligations.MessagesReadRecordsAndRunTests : Prop := recordsAreRead ∧ testsAreRun

/-- MCTP control commands assign and report the endpoint identity, and report versions and message types (14 R378; the answers' form is
that of log 11). -/
def Obligations.MctpControlAnswers : Prop :=
  ∀ (s : State) (eid : BitVec 8), s.mgmt.service ≠ .off → processorRuns s 0 = true →
    let replies := fun (i : Instr) (v : State) (bs : List Byte) => exec i s = .next { v with out := .mctp eid bs :: v.out }
    (∀ new, new ≠ 0 → new ≠ 0xFF → replies (.setEndpointId eid new) { s with mgmt := { s.mgmt with eid := new } } [0, 0, new, 0]) ∧
    (∀ new, new = 0 ∨ new = 0xFF → replies (.setEndpointId eid new) s [2]) ∧
    replies (.getEndpointId eid) s [0, s.mgmt.eid, 0, 0] ∧
    (∀ t, t = 0xFF ∨ t = 0 ∨ t = 0x7F → replies (.getMctpVersionSupport eid t) s
      ([0, BitVec.ofNat 8 ((Config.mctpVersions t).length / 4)] ++ Config.mctpVersions t)) ∧
    (∀ t, t ≠ 0xFF → t ≠ 0 → t ≠ 0x7F → replies (.getMctpVersionSupport eid t) s [0x80]) ∧
    replies (.getMessageTypeSupport eid) s [0, 1, 0x7F] ∧
    replies (.getVendorDefinedMessageSupport eid 0) s
      ([0, 0xFF, 1] ++ beBytes 4 s.mgmt.fuses.enterprise.toNat ++ (leBytes 2 Config.vendorVersion.toNat).reverse)

/-! ### The weighbridge (16) -/

/-- A sample adds v × i × 1 µs of its four entries to the interval's energy exactly, whole millijoules and a fraction; a checkpoint
keeps the count and the accumulators; a close stores a body for the interval and starts the next with the fractions and no work;
a signature publishes the body as the next record under the next index; a watchdog stops the weighbridge's processor (16 R418,
R420, R422 to R426). -/
def Obligations.WeighbridgeMeasuresIntervals : Prop :=
  ∀ s : State, s.power.pwrgood = true →
    (s.power.pllLocked = true →
      (∀ counts, ∃ u, exec (.weighbridgeSample counts) s = .next u ∧
        u = { s with power := { s.power with sclk := s.power.sclk + 100 }, wb := u.wb } ∧
        u.wb.running = s.wb.running + 100 ∧
        u.wb.accum.energy * energyUnit + u.wb.accum.fraction =
          s.wb.accum.energy * energyUnit + s.wb.accum.fraction + sampleEnergy s.wb counts ∧
        u.wb.accum.fraction < energyUnit ∧ u.wb.accum.work = s.wb.accum.work ∧ u.wb.accum.cumEnergy = s.wb.accum.cumEnergy ∧
        u.wb.accum.flags = s.wb.accum.flags ||| (if (∀ ch, ch < 8 →
          (clamped s.wb ch (counts.getD ch 0) : Int) = corrected s.wb ch (counts.getD ch 0)) then 0 else 2 ^ 5)) ∧
      exec .weighbridgeCheckpoint s = .next { s with wb := { s.wb with checkpoint := some (s.wb.running, s.wb.accum) } } ∧
      (s.wb.closed = none → ∃ u body, exec .intervalClose s = .next u ∧ u.wb.closed = some body ∧ body.length = 224 ∧
        field body 8 8 = s.wb.nextNumber % 2 ^ 64 ∧ field body 24 8 = s.wb.accum.start % 2 ^ 64 ∧
        field body 32 8 = s.wb.running % 2 ^ 64 ∧ field body 56 8 = s.wb.accum.energy % 2 ^ 64 ∧
        field body 64 8 = (s.wb.accum.cumEnergy + s.wb.accum.energy) % 2 ^ 64 ∧
        (let a := s.wb.accum
         let n := u.wb.accum
         n.energy = 0 ∧ n.fraction = a.fraction ∧ n.cumEnergy = a.cumEnergy + a.energy ∧ n.start = s.wb.running ∧ n.work = [] ∧
         (∀ c, c < 4 → SMap.get 0 n.cumWork c * 2 ^ 20 + SMap.get 0 n.remainder c =
            SMap.get 0 a.cumWork c * 2 ^ 20 + SMap.get 0 a.remainder c + SMap.get 0 a.work c) ∧
         n.flags = a.flags &&& 2 ^ flagUtc) ∧
        u = { s with wb := { s.wb with closed := some body, accum := u.wb.accum } })) ∧
    (s.wb.restarting = false →
      (∀ body, s.wb.closed = some body → body.length = 224 → s.wb.sigNext < 2 ^ 20 → s.wb.records.length < 3072 →
        ∃ u signed, exec .recordSign s = .next u ∧ u.wb.closed = none ∧ u.wb.nextNumber = s.wb.nextNumber + 1 ∧
          u.wb.sigNext = s.wb.sigNext + 1 ∧
          u.wb.records = s.wb.records ++ [⟨s.wb.nextNumber, signed, slice (Config.weighbridgeSign s.wb.sigNext signed) 0 2832⟩] ∧
          field signed 140 4 = s.wb.sigNext ∧ field signed 6 2 = field body 6 2 ||| 2 ^ flagSigned ∧
          u.wb.accum = s.wb.accum) ∧
      exec .weighbridgeWatchdog s = .next { s with wb := { s.wb with
        restarting := true, accum := { s.wb.accum with flags := s.wb.accum.flags ||| 2 ^ 7 } } })

/-- The weighbridge's messages read a record, its identification, its certificate, an audit entry or a fresh nonce, set its UTC, and
calibrate a channel under a token or, before the legal fuse, without one (16 R428 to R431). -/
def Obligations.WeighbridgeMessagesAnswer : Prop :=
  ∀ (s r : State) (m : Mail), reaches s r m → s.wb.restarting = false →
    let arg := field m.payload 8 8
    let kind := field m.payload 0 1
    (carries m 16 → field m.payload 1 7 = 0 →
      (kind = 0 → (∀ k, s.wb.records.find? (fun x => x.number == arg) = some k →
          answers (.wbReadoutRecord m) s r m 0x0090 .ok (k.body ++ k.signature)) ∧
        (s.wb.records.find? (fun x => x.number == arg) = none → answers (.wbReadoutRecord m) s r m 0x0090 .range [])) ∧
      (kind = 1 → arg = 0 → answers (.wbReadoutIdentification m) s r m 0x0090 .ok
        (leBytes 4 Config.weighbridgeVersion.toNat ++ digestBytes Config.weighbridgeDigest ++ leBytes 8 s.mgmt.fuses.serial.toNat
          ++ leBytes 1 (if s.mgmt.fuses.legal then 1 else 0) ++ zeros 3 ++ leBytes 4 s.wb.auditCount
          ++ leBytes 8 (oldest s.wb) ++ leBytes 8 (newest s.wb) ++ leBytes 4 (2 ^ 20 - s.wb.sigNext)
          ++ leBytes 4 (1024 - s.wb.audits.length))) ∧
      (kind = 2 → answers (.wbReadoutCertificate m) s r m 0x0090 .ok
        (leBytes 4 wbCertified.length ++ (wbCertified.drop arg).take 4000)) ∧
      (kind = 3 → (∀ k, s.wb.audits.find? (fun x => x.counter == arg) = some k →
          answers (.wbReadoutAuditEntry m) s r m 0x0090 .ok (k.body ++ k.signature)) ∧
        (s.wb.audits.find? (fun x => x.counter == arg) = none → answers (.wbReadoutAuditEntry m) s r m 0x0090 .range [])) ∧
      (kind = 4 → arg = 0 → ∃ n, answers (.wbReadoutChallenge m) s
        { r with wb := { r.wb with challenge := some n }, fresh := r.fresh + 1 } m 0x0090 .ok (digestBytes n))) ∧
    (carries m 8 → let utc := field m.payload 0 8
      (utc < 2 ^ 63 → answers (.wbUtc m) s { r with wb := { r.wb with
          utc := utc, utcAt := r.wb.running, accum := { r.wb.accum with flags := r.wb.accum.flags ||| 2 ^ flagUtc } } } m 0x0091 .ok []) ∧
      (2 ^ 63 ≤ utc → answers (.wbUtc m) s r m 0x0091 .range [])) ∧
    (carries m (if 1664 ≤ m.payload.length then 1664 else 16) → field m.payload 1 3 = 0 → field m.payload 12 4 = 0 → kind ≤ 7 →
      let p := m.payload
      let gain := field p 4 4
      let offset := toSigned 32 (field p 8 4)
      let signed := leBytes 4 0x43575154 ++ leBytes 8 s.mgmt.fuses.serial.toNat ++ slice p 16 32 ++ slice p 0 16
      0x3999999A ≤ gain → gain ≤ 0x46666666 → -4096 ≤ offset → offset ≤ 4095 → s.wb.sigNext < 2 ^ 20 → s.wb.audits.length < 1024 →
      ((p.length < 1664 ∧ s.mgmt.fuses.legal = false) ∨ (1664 ≤ p.length ∧ (∃ n, s.wb.challenge = some n ∧ digestBytes n = slice p 16 32) ∧
        hssOk .calibration (horxaKey r factoryKey) signed (slice p 48 1616) = true)) →
      ∃ u x, answers (.wbCalibrate m) s u m 0x0092 .ok (leBytes 4 (s.wb.auditCount + 1)) ∧
        SMap.get {} u.wb.cals kind = ⟨gain, offset⟩ ∧ (∀ j, j ≠ kind → SMap.get {} u.wb.cals j = SMap.get {} s.wb.cals j) ∧
        u.wb.auditCount = s.wb.auditCount + 1 ∧ u.wb.audits = s.wb.audits ++ [x] ∧ x.counter = s.wb.auditCount + 1 ∧
        u.wb.accum = { s.wb.accum with flags := s.wb.accum.flags ||| 2 ^ flagCal } ∧ u.wb.sigNext = s.wb.sigNext + 1 ∧
        u.wb.challenge = (if 1664 ≤ p.length then none else s.wb.challenge) ∧ u = { r with wb := u.wb })

/-! ### Test access (17) -/

/-- The test instructions: the row, its code, whether its scope is open and whether its condition holds (17 R446). -/
def tapRows (s : State) (die : Nat) : List (Instr × Nat × Bool × Bool) :=
  [(.bypass die, 0xFF, true, true), (.idcode die, 0x01, true, true), (.samplePreload die, 0x02, scopeOpen s 0, true),
   (.extest die, 0x03, scopeOpen s 0, noField s), (.clamp die, 0x04, scopeOpen s 0, noField s), (.highz die, 0x05, scopeOpen s 0, noField s),
   (.intest1500 die, 0x10, if dieIsBase die then scopeOpen s 1 else scopeOpen s 2, !dieUsed s die),
   (.stack1500 die, 0x20, dieIsBase die && scopeOpen s 3, noField s)]

/-- A test instruction whose scope is open and whose condition holds comes into force on its die alone; with its scope closed it acts as
BYPASS, and with its condition failing it acts as BYPASS and is recorded. A reset of the TAPs leaves IDCODE in force everywhere
(17 R445 to R447). -/
def Obligations.TestInstructionsTakeForce : Prop :=
  ∀ s : State,
    (∃ u, exec .tapReset s = .next u ∧ (∀ d, tapOf u d = 0x01) ∧ u = { s with tap := u.tap }) ∧
    (s.power.pwrgood = true → ∀ die, die < 8 → ∀ i code scope cond, (i, code, scope, cond) ∈ tapRows s die →
      ∃ u, exec i s = .next u ∧ tapOf u die = (if scope = true ∧ cond = true then code else 0xFF) ∧
        (∀ d, d ≠ die → tapOf u d = tapOf s d) ∧ u = { s with tap := u.tap, mgmt := u.mgmt } ∧
        (scope = false ∨ cond = true → u.mgmt = s.mgmt) ∧
        (scope = true → cond = false → ∃ r : Fault16, u.mgmt = (logFault s r).mgmt ∧ r.cls = 0x12 ∧ r.quarter = dieQuarter die))

/-! ### Rules stated whole (13 R352; 02 R38; 04 R125) -/

/-- The host sets the cap by SET_CAP in whole watts from 1,800 to 5,200; another value is refused with E_RANGE and changes nothing; a
power-on reset sets 4,800 W; package warm resets, quarter resets and firmware restarts keep it (13 R352). -/
def Obligations.PackageCapIsSetAndKept : Prop :=
  (∀ (s r : State) (m : Mail), reaches s r m → carries m 2 →
    let cap := field m.payload 0 2
    (1800 ≤ cap → cap ≤ 5200 → ∃ v, answers (.setCap m) s v m 0x0020 .ok (leBytes 2 cap) ∧ v.power.cap = cap) ∧
    (cap < 1800 ∨ 5200 < cap → ∃ v, answers (.setCap m) s v m 0x0020 .range [] ∧ v.power.cap = s.power.cap)) ∧
  (∀ (s : State) (env : BootEnv), s.power.pwrgood = false → ∃ u, exec (.powerOnReset env) s = .next u ∧ u.power.cap = 4800) ∧
  (∀ (s : State) (env : BootEnv) (m : Mail) (p : Nat),
    (∃ u, exec (.packageWarmReset env) s = .next u ∧ u.power.cap = s.power.cap) ∧
    (∃ u, exec (.resetQuarter m) s = .next u ∧ u.power.cap = s.power.cap) ∧
    (∃ u, exec (.watchdogExpiry p) s = .next u ∧ u.power.cap = s.power.cap) ∧
    (∃ u, exec (.restartProc m) s = .next u ∧ u.power.cap = s.power.cap) ∧
    (s.mgmt.waiting = [] → s.mgmt.parked = [] → ∃ u, exec (.processorRestartEnd p) s = .next u ∧ u.power.cap = s.power.cap))

/-- CRC64 has the parameters of CRC-64/XZ and gives its check value over "123456789" (02 R38). -/
def Obligations.Crc64GivesItsCheckValue : Prop :=
  crc64xz = { width := 64, poly := 0x42F0E1EBA9EA3693, init := 0xFFFFFFFFFFFFFFFF, refin := true, refout := true
              xorout := 0xFFFFFFFFFFFFFFFF } ∧
  crc crc64xz [0x31, 0x32, 0x33, 0x34, 0x35, 0x36, 0x37, 0x38, 0x39] = 0x995DC9BBDF1939FA

/-- The value of a finite magnitude code of a format, as a rational (04 R113). -/
def codeValue (f : FloatFmt) (c : Nat) : Rat :=
  let e := c / 2 ^ f.fb
  let m := if e = 0 then c % 2 ^ f.fb else 2 ^ f.fb + c % 2 ^ f.fb
  (m : Rat) * 2 ^ ((max e 1 : Nat) - (f.bias : Int) - (f.fb : Int))

/-- The distance of two rationals. -/
def apartBy (x y : Rat) : Rat := if x ≤ y then y - x else x - y

/-- Rounding to nearest takes a magnitude n / d · 2^e of any of the six formats to a code no other finite code lies nearer than; on a tie
the code taken is even; a magnitude that a code has is unchanged. To an integer it takes 2.5 to 2 and 3.5 to 4 (04 R125). -/
def Obligations.NearestRoundingTiesToEven : Prop :=
  (∀ f ∈ [fp32, bf16, fp16, e4m3, e5m2, fp4], ∀ (n d : Nat) (e : Int), 0 < d →
    let x : Rat := (n : Rat) / (d : Rat) * 2 ^ e
    let k := f.roundMag .nearest n d e
    k ≤ f.maxc → ∀ c, c ≤ f.maxc →
      apartBy x (codeValue f k) ≤ apartBy x (codeValue f c) ∧
      (apartBy x (codeValue f k) = apartBy x (codeValue f c) → c ≠ k → k % 2 = 0) ∧
      (x = codeValue f c → k = c)) ∧
  (∀ n d : Nat, 0 < d →
    let k := roundQuot .nearest n d
    2 * n ≤ 2 * k * d + d ∧ 2 * k * d ≤ 2 * n + d ∧ (2 * n = 2 * k * d + d ∨ 2 * k * d = 2 * n + d → k % 2 = 0) ∧
    (∀ j, n = j * d → k = j)) ∧
  roundQuot .nearest 5 2 = 2 ∧ roundQuot .nearest 7 2 = 4

end
end

