-- ==== Sys2Proof/Laws/Maps.lean ====
section
/-! SUPPORT. Sparse maps: what reading an entry after a change of one entry gives. -/
namespace Sys2Proof.Machine
variable {α : Type}

theorem SMap.length_erase_le (m : SMap α) (i : Nat) : (SMap.erase m i).length ≤ m.length := by
  induction m with
  | nil => exact Nat.le_refl _
  | cons p m ih => obtain ⟨j, b⟩ := p; unfold SMap.erase; split <;> simp <;> omega

/-- A map that an erasure leaves as it is has no entry of that index at its front. -/
theorem SMap.erase_cons_eq {m : SMap α} {k i : Nat} {a : α} (h : SMap.erase ((k, a) :: m) i = (k, a) :: m) :
    k ≠ i ∧ SMap.erase m i = m := by
  unfold SMap.erase at h
  split at h
  · have := SMap.length_erase_le m i; rw [h] at this; simp only [List.length_cons] at this; omega
  · exact ⟨‹_›, (List.cons.inj h).2⟩

theorem SMap.get_erase_same (d : α) (m : SMap α) (i : Nat) : SMap.get d (SMap.erase m i) i = d := by
  induction m with
  | nil => rfl
  | cons p m ih =>
    obtain ⟨j, a⟩ := p
    unfold SMap.erase
    split
    · exact ih
    · rename_i h; simp only [SMap.get, h, if_false]; exact ih

theorem SMap.get_erase_other (d : α) (m : SMap α) {i j : Nat} (h : j ≠ i) : SMap.get d (SMap.erase m i) j = SMap.get d m j := by
  induction m with
  | nil => rfl
  | cons p m ih =>
    obtain ⟨k, a⟩ := p
    unfold SMap.erase
    split
    · rename_i hk; subst hk; simp only [SMap.get, if_neg (Ne.symm h)]; exact ih
    · simp only [SMap.get, ih]

theorem SMap.get_insert_same (d : α) (m : SMap α) (i : Nat) (x : α) (h : SMap.erase m i = m) :
    SMap.get d (SMap.insert m i x) i = x := by
  induction m with
  | nil => simp [SMap.insert, SMap.get]
  | cons p m ih =>
    obtain ⟨k, a⟩ := p
    obtain ⟨hk, he⟩ := SMap.erase_cons_eq h
    unfold SMap.insert
    split
    · simp [SMap.get]
    · simp only [SMap.get, if_neg hk]; exact ih he

theorem SMap.get_insert_other (d : α) (m : SMap α) {i j : Nat} (x : α) (h : j ≠ i) :
    SMap.get d (SMap.insert m i x) j = SMap.get d m j := by
  induction m with
  | nil => simp [SMap.insert, SMap.get, Ne.symm h]
  | cons p m ih =>
    obtain ⟨k, a⟩ := p
    unfold SMap.insert
    split
    · simp [SMap.get, Ne.symm h]
    · simp only [SMap.get, ih]

theorem SMap.erase_erase (m : SMap α) (i : Nat) : SMap.erase (SMap.erase m i) i = SMap.erase m i := by
  induction m with
  | nil => rfl
  | cons p m ih =>
    obtain ⟨k, a⟩ := p
    by_cases h : k = i
    · simp only [SMap.erase, h, if_true, ih]
    · simp only [SMap.erase, h, if_false, ih]

theorem SMap.erase_insert (m : SMap α) (i : Nat) (x : α) (h : SMap.erase m i = m) :
    SMap.erase (SMap.insert m i x) i = m := by
  induction m with
  | nil => simp [SMap.insert, SMap.erase]
  | cons p m ih =>
    obtain ⟨k, a⟩ := p
    obtain ⟨hk, he⟩ := SMap.erase_cons_eq h
    unfold SMap.insert
    split
    · simp [SMap.erase, hk, he]
    · simp [SMap.erase, hk, ih he]

variable [DecidableEq α]

@[simp] theorem SMap.get_set_same (d : α) (m : SMap α) (i : Nat) (x : α) : SMap.get d (SMap.set d m i x) i = x := by
  unfold SMap.set
  split
  · rename_i h; rw [SMap.get_erase_same, h]
  · exact SMap.get_insert_same d _ i x (SMap.erase_erase m i)

theorem SMap.get_set_other (d : α) (m : SMap α) {i j : Nat} (x : α) (h : j ≠ i) :
    SMap.get d (SMap.set d m i x) j = SMap.get d m j := by
  unfold SMap.set
  split
  · exact SMap.get_erase_other d m h
  · rw [SMap.get_insert_other d _ x h, SMap.get_erase_other d m h]

theorem SMap.erase_set (d : α) (m : SMap α) (i : Nat) (x : α) : SMap.erase (SMap.set d m i x) i = SMap.erase m i := by
  unfold SMap.set
  split
  · exact SMap.erase_erase m i
  · exact SMap.erase_insert _ i x (SMap.erase_erase m i)

@[simp] theorem SMap.set_set (d : α) (m : SMap α) (i : Nat) (x y : α) : SMap.set d (SMap.set d m i x) i y = SMap.set d m i y := by
  have h := SMap.erase_set d m i x
  unfold SMap.set at h ⊢
  rw [h]

@[simp] theorem SMap.get_modify_same (d : α) (m : SMap α) (i : Nat) (f : α → α) :
    SMap.get d (SMap.modify d m i f) i = f (SMap.get d m i) := SMap.get_set_same ..

theorem SMap.get_modify_other (d : α) (m : SMap α) {i j : Nat} (f : α → α) (h : j ≠ i) :
    SMap.get d (SMap.modify d m i f) j = SMap.get d m j := SMap.get_set_other _ _ _ h

end Sys2Proof.Machine
end

