-- ==== Sys2Proof/Laws/State.lean ====
section
/-! SUPPORT. What each small update of the state leaves as it was, field by field, and what it leaves where it writes. -/
namespace Sys2Proof.Machine
variable (s : State)

/-! ### Contexts -/

@[simp] theorem setCtx_fields (t c : Nat) (x : Ctx) : (setCtx s t c x).fields = s.fields := rfl
@[simp] theorem setCtx_sync (t c : Nat) (x : Ctx) : (setCtx s t c x).sync = s.sync := rfl
@[simp] theorem setCtx_mem (t c : Nat) (x : Ctx) : (setCtx s t c x).mem = s.mem := rfl
@[simp] theorem setCtx_units (t c : Nat) (x : Ctx) : (setCtx s t c x).units = s.units := rfl
@[simp] theorem setCtx_ports (t c : Nat) (x : Ctx) : (setCtx s t c x).ports = s.ports := rfl
@[simp] theorem setCtx_colls (t c : Nat) (x : Ctx) : (setCtx s t c x).colls = s.colls := rfl
@[simp] theorem setCtx_power (t c : Nat) (x : Ctx) : (setCtx s t c x).power = s.power := rfl
@[simp] theorem setCtx_mgmt (t c : Nat) (x : Ctx) : (setCtx s t c x).mgmt = s.mgmt := rfl
@[simp] theorem setCtx_wb (t c : Nat) (x : Ctx) : (setCtx s t c x).wb = s.wb := rfl
@[simp] theorem setCtx_tap (t c : Nat) (x : Ctx) : (setCtx s t c x).tap = s.tap := rfl
@[simp] theorem setCtx_pending (t c : Nat) (x : Ctx) : (setCtx s t c x).pending = s.pending := rfl
@[simp] theorem setCtx_out (t c : Nat) (x : Ctx) : (setCtx s t c x).out = s.out := rfl
@[simp] theorem setCtx_fresh (t c : Nat) (x : Ctx) : (setCtx s t c x).fresh = s.fresh := rfl
@[simp] theorem setCtx_tiles_table (t c : Nat) (x : Ctx) : (setCtx s t c x).tiles.table = s.tiles.table := rfl
@[simp] theorem setCtx_tiles_tableCopy (t c : Nat) (x : Ctx) : (setCtx s t c x).tiles.tableCopy = s.tiles.tableCopy := rfl
@[simp] theorem setCtx_tiles_queues (t c : Nat) (x : Ctx) : (setCtx s t c x).tiles.queues = s.tiles.queues := rfl
@[simp] theorem setCtx_tiles_putBack (t c : Nat) (x : Ctx) : (setCtx s t c x).tiles.putBack = s.tiles.putBack := rfl
@[simp] theorem setCtx_tiles_quarantine (t c : Nat) (x : Ctx) : (setCtx s t c x).tiles.quarantine = s.tiles.quarantine := rfl
@[simp] theorem setCtx_tiles_level (t c : Nat) (x : Ctx) : (setCtx s t c x).tiles.level = s.tiles.level := rfl
@[simp] theorem setCtx_tiles_counters (t c : Nat) (x : Ctx) : (setCtx s t c x).tiles.counters = s.tiles.counters := rfl
@[simp] theorem setCtx_tiles_regions (t c : Nat) (x : Ctx) : (setCtx s t c x).tiles.regions = s.tiles.regions := rfl
@[simp] theorem setCtx_tiles_halfMode (t c : Nat) (x : Ctx) : (setCtx s t c x).tiles.halfMode = s.tiles.halfMode := rfl
@[simp] theorem setCtx_tiles_chaff (t c : Nat) (x : Ctx) : (setCtx s t c x).tiles.chaff = s.tiles.chaff := rfl
@[simp] theorem setCtx_tiles_checks (t c : Nat) (x : Ctx) : (setCtx s t c x).tiles.checks = s.tiles.checks := rfl
@[simp] theorem setCtx_tiles_checkSteps (t c : Nat) (x : Ctx) : (setCtx s t c x).tiles.checkSteps = s.tiles.checkSteps := rfl
@[simp] theorem setCtx_tiles_droop (t c : Nat) (x : Ctx) : (setCtx s t c x).tiles.droop = s.tiles.droop := rfl

/-! ### Queues -/

@[simp] theorem setQueue_fields (t f : Nat) (q : Queue) : (setQueue s t f q).fields = s.fields := rfl
@[simp] theorem setQueue_sync (t f : Nat) (q : Queue) : (setQueue s t f q).sync = s.sync := rfl
@[simp] theorem setQueue_mem (t f : Nat) (q : Queue) : (setQueue s t f q).mem = s.mem := rfl
@[simp] theorem setQueue_units (t f : Nat) (q : Queue) : (setQueue s t f q).units = s.units := rfl
@[simp] theorem setQueue_ports (t f : Nat) (q : Queue) : (setQueue s t f q).ports = s.ports := rfl
@[simp] theorem setQueue_colls (t f : Nat) (q : Queue) : (setQueue s t f q).colls = s.colls := rfl
@[simp] theorem setQueue_power (t f : Nat) (q : Queue) : (setQueue s t f q).power = s.power := rfl
@[simp] theorem setQueue_mgmt (t f : Nat) (q : Queue) : (setQueue s t f q).mgmt = s.mgmt := rfl
@[simp] theorem setQueue_wb (t f : Nat) (q : Queue) : (setQueue s t f q).wb = s.wb := rfl
@[simp] theorem setQueue_tap (t f : Nat) (q : Queue) : (setQueue s t f q).tap = s.tap := rfl
@[simp] theorem setQueue_pending (t f : Nat) (q : Queue) : (setQueue s t f q).pending = s.pending := rfl
@[simp] theorem setQueue_out (t f : Nat) (q : Queue) : (setQueue s t f q).out = s.out := rfl
@[simp] theorem setQueue_fresh (t f : Nat) (q : Queue) : (setQueue s t f q).fresh = s.fresh := rfl
@[simp] theorem setQueue_tiles_ctxs (t f : Nat) (q : Queue) : (setQueue s t f q).tiles.ctxs = s.tiles.ctxs := rfl
@[simp] theorem setQueue_tiles_table (t f : Nat) (q : Queue) : (setQueue s t f q).tiles.table = s.tiles.table := rfl
@[simp] theorem setQueue_tiles_tableCopy (t f : Nat) (q : Queue) : (setQueue s t f q).tiles.tableCopy = s.tiles.tableCopy := rfl
@[simp] theorem setQueue_tiles_putBack (t f : Nat) (q : Queue) : (setQueue s t f q).tiles.putBack = s.tiles.putBack := rfl
@[simp] theorem setQueue_tiles_quarantine (t f : Nat) (q : Queue) : (setQueue s t f q).tiles.quarantine = s.tiles.quarantine := rfl
@[simp] theorem setQueue_tiles_level (t f : Nat) (q : Queue) : (setQueue s t f q).tiles.level = s.tiles.level := rfl
@[simp] theorem setQueue_tiles_counters (t f : Nat) (q : Queue) : (setQueue s t f q).tiles.counters = s.tiles.counters := rfl
@[simp] theorem setQueue_tiles_regions (t f : Nat) (q : Queue) : (setQueue s t f q).tiles.regions = s.tiles.regions := rfl
@[simp] theorem setQueue_tiles_halfMode (t f : Nat) (q : Queue) : (setQueue s t f q).tiles.halfMode = s.tiles.halfMode := rfl
@[simp] theorem setQueue_tiles_chaff (t f : Nat) (q : Queue) : (setQueue s t f q).tiles.chaff = s.tiles.chaff := rfl
@[simp] theorem setQueue_tiles_checks (t f : Nat) (q : Queue) : (setQueue s t f q).tiles.checks = s.tiles.checks := rfl
@[simp] theorem setQueue_tiles_checkSteps (t f : Nat) (q : Queue) : (setQueue s t f q).tiles.checkSteps = s.tiles.checkSteps := rfl
@[simp] theorem setQueue_tiles_droop (t f : Nat) (q : Queue) : (setQueue s t f q).tiles.droop = s.tiles.droop := rfl

/-! ### Tile counters -/

@[simp] theorem bumpCounters_fields (t : Nat) (f : TileCounters → TileCounters) : (bumpCounters s t f).fields = s.fields := rfl
@[simp] theorem bumpCounters_sync (t : Nat) (f : TileCounters → TileCounters) : (bumpCounters s t f).sync = s.sync := rfl
@[simp] theorem bumpCounters_mem (t : Nat) (f : TileCounters → TileCounters) : (bumpCounters s t f).mem = s.mem := rfl
@[simp] theorem bumpCounters_units (t : Nat) (f : TileCounters → TileCounters) : (bumpCounters s t f).units = s.units := rfl
@[simp] theorem bumpCounters_ports (t : Nat) (f : TileCounters → TileCounters) : (bumpCounters s t f).ports = s.ports := rfl
@[simp] theorem bumpCounters_colls (t : Nat) (f : TileCounters → TileCounters) : (bumpCounters s t f).colls = s.colls := rfl
@[simp] theorem bumpCounters_power (t : Nat) (f : TileCounters → TileCounters) : (bumpCounters s t f).power = s.power := rfl
@[simp] theorem bumpCounters_mgmt (t : Nat) (f : TileCounters → TileCounters) : (bumpCounters s t f).mgmt = s.mgmt := rfl
@[simp] theorem bumpCounters_wb (t : Nat) (f : TileCounters → TileCounters) : (bumpCounters s t f).wb = s.wb := rfl
@[simp] theorem bumpCounters_tap (t : Nat) (f : TileCounters → TileCounters) : (bumpCounters s t f).tap = s.tap := rfl
@[simp] theorem bumpCounters_pending (t : Nat) (f : TileCounters → TileCounters) : (bumpCounters s t f).pending = s.pending := rfl
@[simp] theorem bumpCounters_out (t : Nat) (f : TileCounters → TileCounters) : (bumpCounters s t f).out = s.out := rfl
@[simp] theorem bumpCounters_fresh (t : Nat) (f : TileCounters → TileCounters) : (bumpCounters s t f).fresh = s.fresh := rfl
@[simp] theorem bumpCounters_tiles_ctxs (t : Nat) (f : TileCounters → TileCounters) : (bumpCounters s t f).tiles.ctxs = s.tiles.ctxs := rfl
@[simp] theorem bumpCounters_tiles_table (t : Nat) (f : TileCounters → TileCounters) : (bumpCounters s t f).tiles.table = s.tiles.table := rfl
@[simp] theorem bumpCounters_tiles_tableCopy (t : Nat) (f : TileCounters → TileCounters) : (bumpCounters s t f).tiles.tableCopy = s.tiles.tableCopy := rfl
@[simp] theorem bumpCounters_tiles_queues (t : Nat) (f : TileCounters → TileCounters) : (bumpCounters s t f).tiles.queues = s.tiles.queues := rfl
@[simp] theorem bumpCounters_tiles_putBack (t : Nat) (f : TileCounters → TileCounters) : (bumpCounters s t f).tiles.putBack = s.tiles.putBack := rfl
@[simp] theorem bumpCounters_tiles_quarantine (t : Nat) (f : TileCounters → TileCounters) : (bumpCounters s t f).tiles.quarantine = s.tiles.quarantine := rfl
@[simp] theorem bumpCounters_tiles_level (t : Nat) (f : TileCounters → TileCounters) : (bumpCounters s t f).tiles.level = s.tiles.level := rfl
@[simp] theorem bumpCounters_tiles_regions (t : Nat) (f : TileCounters → TileCounters) : (bumpCounters s t f).tiles.regions = s.tiles.regions := rfl
@[simp] theorem bumpCounters_tiles_halfMode (t : Nat) (f : TileCounters → TileCounters) : (bumpCounters s t f).tiles.halfMode = s.tiles.halfMode := rfl
@[simp] theorem bumpCounters_tiles_chaff (t : Nat) (f : TileCounters → TileCounters) : (bumpCounters s t f).tiles.chaff = s.tiles.chaff := rfl
@[simp] theorem bumpCounters_tiles_checks (t : Nat) (f : TileCounters → TileCounters) : (bumpCounters s t f).tiles.checks = s.tiles.checks := rfl
@[simp] theorem bumpCounters_tiles_checkSteps (t : Nat) (f : TileCounters → TileCounters) : (bumpCounters s t f).tiles.checkSteps = s.tiles.checkSteps := rfl
@[simp] theorem bumpCounters_tiles_droop (t : Nat) (f : TileCounters → TileCounters) : (bumpCounters s t f).tiles.droop = s.tiles.droop := rfl

/-! ### A step issued -/

@[simp] theorem issued_fields (t c : Nat) : (issued s t c).fields = s.fields := rfl
@[simp] theorem issued_sync (t c : Nat) : (issued s t c).sync = s.sync := rfl
@[simp] theorem issued_mem (t c : Nat) : (issued s t c).mem = s.mem := rfl
@[simp] theorem issued_units (t c : Nat) : (issued s t c).units = s.units := rfl
@[simp] theorem issued_ports (t c : Nat) : (issued s t c).ports = s.ports := rfl
@[simp] theorem issued_colls (t c : Nat) : (issued s t c).colls = s.colls := rfl
@[simp] theorem issued_power (t c : Nat) : (issued s t c).power = s.power := rfl
@[simp] theorem issued_mgmt (t c : Nat) : (issued s t c).mgmt = s.mgmt := rfl
@[simp] theorem issued_wb (t c : Nat) : (issued s t c).wb = s.wb := rfl
@[simp] theorem issued_tap (t c : Nat) : (issued s t c).tap = s.tap := rfl
@[simp] theorem issued_pending (t c : Nat) : (issued s t c).pending = s.pending := rfl
@[simp] theorem issued_out (t c : Nat) : (issued s t c).out = s.out := rfl
@[simp] theorem issued_fresh (t c : Nat) : (issued s t c).fresh = s.fresh := rfl
@[simp] theorem issued_tiles_table (t c : Nat) : (issued s t c).tiles.table = s.tiles.table := rfl
@[simp] theorem issued_tiles_tableCopy (t c : Nat) : (issued s t c).tiles.tableCopy = s.tiles.tableCopy := rfl
@[simp] theorem issued_tiles_queues (t c : Nat) : (issued s t c).tiles.queues = s.tiles.queues := rfl
@[simp] theorem issued_tiles_putBack (t c : Nat) : (issued s t c).tiles.putBack = s.tiles.putBack := rfl
@[simp] theorem issued_tiles_quarantine (t c : Nat) : (issued s t c).tiles.quarantine = s.tiles.quarantine := rfl
@[simp] theorem issued_tiles_level (t c : Nat) : (issued s t c).tiles.level = s.tiles.level := rfl
@[simp] theorem issued_tiles_regions (t c : Nat) : (issued s t c).tiles.regions = s.tiles.regions := rfl
@[simp] theorem issued_tiles_halfMode (t c : Nat) : (issued s t c).tiles.halfMode = s.tiles.halfMode := rfl
@[simp] theorem issued_tiles_chaff (t c : Nat) : (issued s t c).tiles.chaff = s.tiles.chaff := rfl
@[simp] theorem issued_tiles_checks (t c : Nat) : (issued s t c).tiles.checks = s.tiles.checks := rfl
@[simp] theorem issued_tiles_checkSteps (t c : Nat) : (issued s t c).tiles.checkSteps = s.tiles.checkSteps := rfl
@[simp] theorem issued_tiles_droop (t c : Nat) : (issued s t c).tiles.droop = s.tiles.droop := rfl

/-! ### Wake wires -/

@[simp] theorem pulseWire_tiles (q w : Nat) : (pulseWire s q w).tiles = s.tiles := rfl
@[simp] theorem pulseWire_fields (q w : Nat) : (pulseWire s q w).fields = s.fields := rfl
@[simp] theorem pulseWire_mem (q w : Nat) : (pulseWire s q w).mem = s.mem := rfl
@[simp] theorem pulseWire_units (q w : Nat) : (pulseWire s q w).units = s.units := rfl
@[simp] theorem pulseWire_ports (q w : Nat) : (pulseWire s q w).ports = s.ports := rfl
@[simp] theorem pulseWire_colls (q w : Nat) : (pulseWire s q w).colls = s.colls := rfl
@[simp] theorem pulseWire_power (q w : Nat) : (pulseWire s q w).power = s.power := rfl
@[simp] theorem pulseWire_mgmt (q w : Nat) : (pulseWire s q w).mgmt = s.mgmt := rfl
@[simp] theorem pulseWire_wb (q w : Nat) : (pulseWire s q w).wb = s.wb := rfl
@[simp] theorem pulseWire_tap (q w : Nat) : (pulseWire s q w).tap = s.tap := rfl
@[simp] theorem pulseWire_pending (q w : Nat) : (pulseWire s q w).pending = s.pending := rfl
@[simp] theorem pulseWire_out (q w : Nat) : (pulseWire s q w).out = s.out := rfl
@[simp] theorem pulseWire_fresh (q w : Nat) : (pulseWire s q w).fresh = s.fresh := rfl
@[simp] theorem pulseWire_sync_barriers (q w : Nat) : (pulseWire s q w).sync.barriers = s.sync.barriers := rfl
@[simp] theorem pulseWire_sync_words (q w : Nat) : (pulseWire s q w).sync.words = s.sync.words := rfl
@[simp] theorem pulseWire_sync_attrs (q w : Nat) : (pulseWire s q w).sync.attrs = s.sync.attrs := rfl
@[simp] theorem pulseWire_sync_served (q w : Nat) : (pulseWire s q w).sync.served = s.sync.served := rfl

/-! ### Barrier units -/

@[simp] theorem setBarrier_tiles (q u : Nat) (b : Barrier) : (setBarrier s q u b).tiles = s.tiles := rfl
@[simp] theorem setBarrier_fields (q u : Nat) (b : Barrier) : (setBarrier s q u b).fields = s.fields := rfl
@[simp] theorem setBarrier_mem (q u : Nat) (b : Barrier) : (setBarrier s q u b).mem = s.mem := rfl
@[simp] theorem setBarrier_units (q u : Nat) (b : Barrier) : (setBarrier s q u b).units = s.units := rfl
@[simp] theorem setBarrier_ports (q u : Nat) (b : Barrier) : (setBarrier s q u b).ports = s.ports := rfl
@[simp] theorem setBarrier_colls (q u : Nat) (b : Barrier) : (setBarrier s q u b).colls = s.colls := rfl
@[simp] theorem setBarrier_power (q u : Nat) (b : Barrier) : (setBarrier s q u b).power = s.power := rfl
@[simp] theorem setBarrier_mgmt (q u : Nat) (b : Barrier) : (setBarrier s q u b).mgmt = s.mgmt := rfl
@[simp] theorem setBarrier_wb (q u : Nat) (b : Barrier) : (setBarrier s q u b).wb = s.wb := rfl
@[simp] theorem setBarrier_tap (q u : Nat) (b : Barrier) : (setBarrier s q u b).tap = s.tap := rfl
@[simp] theorem setBarrier_pending (q u : Nat) (b : Barrier) : (setBarrier s q u b).pending = s.pending := rfl
@[simp] theorem setBarrier_out (q u : Nat) (b : Barrier) : (setBarrier s q u b).out = s.out := rfl
@[simp] theorem setBarrier_fresh (q u : Nat) (b : Barrier) : (setBarrier s q u b).fresh = s.fresh := rfl
@[simp] theorem setBarrier_sync_words (q u : Nat) (b : Barrier) : (setBarrier s q u b).sync.words = s.sync.words := rfl
@[simp] theorem setBarrier_sync_attrs (q u : Nat) (b : Barrier) : (setBarrier s q u b).sync.attrs = s.sync.attrs := rfl
@[simp] theorem setBarrier_sync_sent (q u : Nat) (b : Barrier) : (setBarrier s q u b).sync.sent = s.sync.sent := rfl
@[simp] theorem setBarrier_sync_served (q u : Nat) (b : Barrier) : (setBarrier s q u b).sync.served = s.sync.served := rfl

/-! ### Lofts -/

@[simp] theorem setLoft_tiles (q : Nat) (l : Loft) : (setLoft s q l).tiles = s.tiles := rfl
@[simp] theorem setLoft_fields (q : Nat) (l : Loft) : (setLoft s q l).fields = s.fields := rfl
@[simp] theorem setLoft_sync (q : Nat) (l : Loft) : (setLoft s q l).sync = s.sync := rfl
@[simp] theorem setLoft_units (q : Nat) (l : Loft) : (setLoft s q l).units = s.units := rfl
@[simp] theorem setLoft_ports (q : Nat) (l : Loft) : (setLoft s q l).ports = s.ports := rfl
@[simp] theorem setLoft_colls (q : Nat) (l : Loft) : (setLoft s q l).colls = s.colls := rfl
@[simp] theorem setLoft_power (q : Nat) (l : Loft) : (setLoft s q l).power = s.power := rfl
@[simp] theorem setLoft_mgmt (q : Nat) (l : Loft) : (setLoft s q l).mgmt = s.mgmt := rfl
@[simp] theorem setLoft_wb (q : Nat) (l : Loft) : (setLoft s q l).wb = s.wb := rfl
@[simp] theorem setLoft_tap (q : Nat) (l : Loft) : (setLoft s q l).tap = s.tap := rfl
@[simp] theorem setLoft_pending (q : Nat) (l : Loft) : (setLoft s q l).pending = s.pending := rfl
@[simp] theorem setLoft_out (q : Nat) (l : Loft) : (setLoft s q l).out = s.out := rfl
@[simp] theorem setLoft_fresh (q : Nat) (l : Loft) : (setLoft s q l).fresh = s.fresh := rfl
@[simp] theorem setLoft_mem_bytes (q : Nat) (l : Loft) : (setLoft s q l).mem.bytes = s.mem.bytes := rfl
@[simp] theorem setLoft_mem_flips (q : Nat) (l : Loft) : (setLoft s q l).mem.flips = s.mem.flips := rfl
@[simp] theorem setLoft_mem_logs (q : Nat) (l : Loft) : (setLoft s q l).mem.logs = s.mem.logs := rfl
@[simp] theorem setLoft_mem_channels (q : Nat) (l : Loft) : (setLoft s q l).mem.channels = s.mem.channels := rfl
@[simp] theorem setLoft_mem_live (q : Nat) (l : Loft) : (setLoft s q l).mem.live = s.mem.live := rfl
@[simp] theorem setLoft_mem_thermal (q : Nat) (l : Loft) : (setLoft s q l).mem.thermal = s.mem.thermal := rfl
@[simp] theorem setLoft_mem_corrected (q : Nat) (l : Loft) : (setLoft s q l).mem.corrected = s.mem.corrected := rfl
@[simp] theorem setLoft_mem_rowTimes (q : Nat) (l : Loft) : (setLoft s q l).mem.rowTimes = s.mem.rowTimes := rfl
@[simp] theorem setLoft_mem_retired (q : Nat) (l : Loft) : (setLoft s q l).mem.retired = s.mem.retired := rfl
@[simp] theorem setLoft_mem_retireSeq (q : Nat) (l : Loft) : (setLoft s q l).mem.retireSeq = s.mem.retireSeq := rfl
@[simp] theorem setLoft_mem_retained (q : Nat) (l : Loft) : (setLoft s q l).mem.retained = s.mem.retained := rfl
@[simp] theorem setLoft_mem_away (q : Nat) (l : Loft) : (setLoft s q l).mem.away = s.mem.away := rfl

/-! ### Channel counters -/

@[simp] theorem countRead_tiles (g : Nat) : (countRead s g).tiles = s.tiles := rfl
@[simp] theorem countRead_fields (g : Nat) : (countRead s g).fields = s.fields := rfl
@[simp] theorem countRead_sync (g : Nat) : (countRead s g).sync = s.sync := rfl
@[simp] theorem countRead_units (g : Nat) : (countRead s g).units = s.units := rfl
@[simp] theorem countRead_ports (g : Nat) : (countRead s g).ports = s.ports := rfl
@[simp] theorem countRead_colls (g : Nat) : (countRead s g).colls = s.colls := rfl
@[simp] theorem countRead_power (g : Nat) : (countRead s g).power = s.power := rfl
@[simp] theorem countRead_mgmt (g : Nat) : (countRead s g).mgmt = s.mgmt := rfl
@[simp] theorem countRead_wb (g : Nat) : (countRead s g).wb = s.wb := rfl
@[simp] theorem countRead_tap (g : Nat) : (countRead s g).tap = s.tap := rfl
@[simp] theorem countRead_pending (g : Nat) : (countRead s g).pending = s.pending := rfl
@[simp] theorem countRead_out (g : Nat) : (countRead s g).out = s.out := rfl
@[simp] theorem countRead_fresh (g : Nat) : (countRead s g).fresh = s.fresh := rfl
@[simp] theorem countRead_mem_bytes (g : Nat) : (countRead s g).mem.bytes = s.mem.bytes := rfl
@[simp] theorem countRead_mem_flips (g : Nat) : (countRead s g).mem.flips = s.mem.flips := rfl
@[simp] theorem countRead_mem_lofts (g : Nat) : (countRead s g).mem.lofts = s.mem.lofts := rfl
@[simp] theorem countRead_mem_logs (g : Nat) : (countRead s g).mem.logs = s.mem.logs := rfl
@[simp] theorem countRead_mem_live (g : Nat) : (countRead s g).mem.live = s.mem.live := rfl
@[simp] theorem countRead_mem_thermal (g : Nat) : (countRead s g).mem.thermal = s.mem.thermal := rfl
@[simp] theorem countRead_mem_corrected (g : Nat) : (countRead s g).mem.corrected = s.mem.corrected := rfl
@[simp] theorem countRead_mem_rowTimes (g : Nat) : (countRead s g).mem.rowTimes = s.mem.rowTimes := rfl
@[simp] theorem countRead_mem_retired (g : Nat) : (countRead s g).mem.retired = s.mem.retired := rfl
@[simp] theorem countRead_mem_retireSeq (g : Nat) : (countRead s g).mem.retireSeq = s.mem.retireSeq := rfl
@[simp] theorem countRead_mem_retained (g : Nat) : (countRead s g).mem.retained = s.mem.retained := rfl
@[simp] theorem countRead_mem_away (g : Nat) : (countRead s g).mem.away = s.mem.away := rfl

@[simp] theorem countWrite_tiles (g : Nat) : (countWrite s g).tiles = s.tiles := rfl
@[simp] theorem countWrite_fields (g : Nat) : (countWrite s g).fields = s.fields := rfl
@[simp] theorem countWrite_sync (g : Nat) : (countWrite s g).sync = s.sync := rfl
@[simp] theorem countWrite_units (g : Nat) : (countWrite s g).units = s.units := rfl
@[simp] theorem countWrite_ports (g : Nat) : (countWrite s g).ports = s.ports := rfl
@[simp] theorem countWrite_colls (g : Nat) : (countWrite s g).colls = s.colls := rfl
@[simp] theorem countWrite_power (g : Nat) : (countWrite s g).power = s.power := rfl
@[simp] theorem countWrite_mgmt (g : Nat) : (countWrite s g).mgmt = s.mgmt := rfl
@[simp] theorem countWrite_wb (g : Nat) : (countWrite s g).wb = s.wb := rfl
@[simp] theorem countWrite_tap (g : Nat) : (countWrite s g).tap = s.tap := rfl
@[simp] theorem countWrite_pending (g : Nat) : (countWrite s g).pending = s.pending := rfl
@[simp] theorem countWrite_out (g : Nat) : (countWrite s g).out = s.out := rfl
@[simp] theorem countWrite_fresh (g : Nat) : (countWrite s g).fresh = s.fresh := rfl
@[simp] theorem countWrite_mem_bytes (g : Nat) : (countWrite s g).mem.bytes = s.mem.bytes := rfl
@[simp] theorem countWrite_mem_flips (g : Nat) : (countWrite s g).mem.flips = s.mem.flips := rfl
@[simp] theorem countWrite_mem_lofts (g : Nat) : (countWrite s g).mem.lofts = s.mem.lofts := rfl
@[simp] theorem countWrite_mem_logs (g : Nat) : (countWrite s g).mem.logs = s.mem.logs := rfl
@[simp] theorem countWrite_mem_live (g : Nat) : (countWrite s g).mem.live = s.mem.live := rfl
@[simp] theorem countWrite_mem_thermal (g : Nat) : (countWrite s g).mem.thermal = s.mem.thermal := rfl
@[simp] theorem countWrite_mem_corrected (g : Nat) : (countWrite s g).mem.corrected = s.mem.corrected := rfl
@[simp] theorem countWrite_mem_rowTimes (g : Nat) : (countWrite s g).mem.rowTimes = s.mem.rowTimes := rfl
@[simp] theorem countWrite_mem_retired (g : Nat) : (countWrite s g).mem.retired = s.mem.retired := rfl
@[simp] theorem countWrite_mem_retireSeq (g : Nat) : (countWrite s g).mem.retireSeq = s.mem.retireSeq := rfl
@[simp] theorem countWrite_mem_retained (g : Nat) : (countWrite s g).mem.retained = s.mem.retained := rfl
@[simp] theorem countWrite_mem_away (g : Nat) : (countWrite s g).mem.away = s.mem.away := rfl

/-! ### Channels -/

@[simp] theorem setChannel_tiles (c : Nat) (x : Channel) : (setChannel s c x).tiles = s.tiles := rfl
@[simp] theorem setChannel_fields (c : Nat) (x : Channel) : (setChannel s c x).fields = s.fields := rfl
@[simp] theorem setChannel_sync (c : Nat) (x : Channel) : (setChannel s c x).sync = s.sync := rfl
@[simp] theorem setChannel_units (c : Nat) (x : Channel) : (setChannel s c x).units = s.units := rfl
@[simp] theorem setChannel_ports (c : Nat) (x : Channel) : (setChannel s c x).ports = s.ports := rfl
@[simp] theorem setChannel_colls (c : Nat) (x : Channel) : (setChannel s c x).colls = s.colls := rfl
@[simp] theorem setChannel_power (c : Nat) (x : Channel) : (setChannel s c x).power = s.power := rfl
@[simp] theorem setChannel_mgmt (c : Nat) (x : Channel) : (setChannel s c x).mgmt = s.mgmt := rfl
@[simp] theorem setChannel_wb (c : Nat) (x : Channel) : (setChannel s c x).wb = s.wb := rfl
@[simp] theorem setChannel_tap (c : Nat) (x : Channel) : (setChannel s c x).tap = s.tap := rfl
@[simp] theorem setChannel_pending (c : Nat) (x : Channel) : (setChannel s c x).pending = s.pending := rfl
@[simp] theorem setChannel_out (c : Nat) (x : Channel) : (setChannel s c x).out = s.out := rfl
@[simp] theorem setChannel_fresh (c : Nat) (x : Channel) : (setChannel s c x).fresh = s.fresh := rfl
@[simp] theorem setChannel_mem_bytes (c : Nat) (x : Channel) : (setChannel s c x).mem.bytes = s.mem.bytes := rfl
@[simp] theorem setChannel_mem_flips (c : Nat) (x : Channel) : (setChannel s c x).mem.flips = s.mem.flips := rfl
@[simp] theorem setChannel_mem_lofts (c : Nat) (x : Channel) : (setChannel s c x).mem.lofts = s.mem.lofts := rfl
@[simp] theorem setChannel_mem_logs (c : Nat) (x : Channel) : (setChannel s c x).mem.logs = s.mem.logs := rfl
@[simp] theorem setChannel_mem_live (c : Nat) (x : Channel) : (setChannel s c x).mem.live = s.mem.live := rfl
@[simp] theorem setChannel_mem_thermal (c : Nat) (x : Channel) : (setChannel s c x).mem.thermal = s.mem.thermal := rfl
@[simp] theorem setChannel_mem_corrected (c : Nat) (x : Channel) : (setChannel s c x).mem.corrected = s.mem.corrected := rfl
@[simp] theorem setChannel_mem_rowTimes (c : Nat) (x : Channel) : (setChannel s c x).mem.rowTimes = s.mem.rowTimes := rfl
@[simp] theorem setChannel_mem_retired (c : Nat) (x : Channel) : (setChannel s c x).mem.retired = s.mem.retired := rfl
@[simp] theorem setChannel_mem_retireSeq (c : Nat) (x : Channel) : (setChannel s c x).mem.retireSeq = s.mem.retireSeq := rfl
@[simp] theorem setChannel_mem_retained (c : Nat) (x : Channel) : (setChannel s c x).mem.retained = s.mem.retained := rfl
@[simp] theorem setChannel_mem_away (c : Nat) (x : Channel) : (setChannel s c x).mem.away = s.mem.away := rfl

/-! ### Rows -/

@[simp] theorem noteRow_tiles (row n : Nat) : (noteRow s row n).tiles = s.tiles := rfl
@[simp] theorem noteRow_fields (row n : Nat) : (noteRow s row n).fields = s.fields := rfl
@[simp] theorem noteRow_sync (row n : Nat) : (noteRow s row n).sync = s.sync := rfl
@[simp] theorem noteRow_units (row n : Nat) : (noteRow s row n).units = s.units := rfl
@[simp] theorem noteRow_ports (row n : Nat) : (noteRow s row n).ports = s.ports := rfl
@[simp] theorem noteRow_colls (row n : Nat) : (noteRow s row n).colls = s.colls := rfl
@[simp] theorem noteRow_power (row n : Nat) : (noteRow s row n).power = s.power := rfl
@[simp] theorem noteRow_mgmt (row n : Nat) : (noteRow s row n).mgmt = s.mgmt := rfl
@[simp] theorem noteRow_wb (row n : Nat) : (noteRow s row n).wb = s.wb := rfl
@[simp] theorem noteRow_tap (row n : Nat) : (noteRow s row n).tap = s.tap := rfl
@[simp] theorem noteRow_pending (row n : Nat) : (noteRow s row n).pending = s.pending := rfl
@[simp] theorem noteRow_out (row n : Nat) : (noteRow s row n).out = s.out := rfl
@[simp] theorem noteRow_fresh (row n : Nat) : (noteRow s row n).fresh = s.fresh := rfl
@[simp] theorem noteRow_mem_bytes (row n : Nat) : (noteRow s row n).mem.bytes = s.mem.bytes := rfl
@[simp] theorem noteRow_mem_flips (row n : Nat) : (noteRow s row n).mem.flips = s.mem.flips := rfl
@[simp] theorem noteRow_mem_lofts (row n : Nat) : (noteRow s row n).mem.lofts = s.mem.lofts := rfl
@[simp] theorem noteRow_mem_logs (row n : Nat) : (noteRow s row n).mem.logs = s.mem.logs := rfl
@[simp] theorem noteRow_mem_channels (row n : Nat) : (noteRow s row n).mem.channels = s.mem.channels := rfl
@[simp] theorem noteRow_mem_live (row n : Nat) : (noteRow s row n).mem.live = s.mem.live := rfl
@[simp] theorem noteRow_mem_thermal (row n : Nat) : (noteRow s row n).mem.thermal = s.mem.thermal := rfl
@[simp] theorem noteRow_mem_corrected (row n : Nat) : (noteRow s row n).mem.corrected = s.mem.corrected := rfl
@[simp] theorem noteRow_mem_retired (row n : Nat) : (noteRow s row n).mem.retired = s.mem.retired := rfl
@[simp] theorem noteRow_mem_retireSeq (row n : Nat) : (noteRow s row n).mem.retireSeq = s.mem.retireSeq := rfl
@[simp] theorem noteRow_mem_retained (row n : Nat) : (noteRow s row n).mem.retained = s.mem.retained := rfl
@[simp] theorem noteRow_mem_away (row n : Nat) : (noteRow s row n).mem.away = s.mem.away := rfl

/-! ### Words -/

@[simp] theorem storeWord_tiles (w d : Nat) : (storeWord s w d).tiles = s.tiles := rfl
@[simp] theorem storeWord_fields (w d : Nat) : (storeWord s w d).fields = s.fields := rfl
@[simp] theorem storeWord_sync (w d : Nat) : (storeWord s w d).sync = s.sync := rfl
@[simp] theorem storeWord_units (w d : Nat) : (storeWord s w d).units = s.units := rfl
@[simp] theorem storeWord_ports (w d : Nat) : (storeWord s w d).ports = s.ports := rfl
@[simp] theorem storeWord_colls (w d : Nat) : (storeWord s w d).colls = s.colls := rfl
@[simp] theorem storeWord_power (w d : Nat) : (storeWord s w d).power = s.power := rfl
@[simp] theorem storeWord_mgmt (w d : Nat) : (storeWord s w d).mgmt = s.mgmt := rfl
@[simp] theorem storeWord_wb (w d : Nat) : (storeWord s w d).wb = s.wb := rfl
@[simp] theorem storeWord_tap (w d : Nat) : (storeWord s w d).tap = s.tap := rfl
@[simp] theorem storeWord_pending (w d : Nat) : (storeWord s w d).pending = s.pending := rfl
@[simp] theorem storeWord_out (w d : Nat) : (storeWord s w d).out = s.out := rfl
@[simp] theorem storeWord_fresh (w d : Nat) : (storeWord s w d).fresh = s.fresh := rfl
@[simp] theorem storeWord_mem_lofts (w d : Nat) : (storeWord s w d).mem.lofts = s.mem.lofts := rfl
@[simp] theorem storeWord_mem_logs (w d : Nat) : (storeWord s w d).mem.logs = s.mem.logs := rfl
@[simp] theorem storeWord_mem_channels (w d : Nat) : (storeWord s w d).mem.channels = s.mem.channels := rfl
@[simp] theorem storeWord_mem_live (w d : Nat) : (storeWord s w d).mem.live = s.mem.live := rfl
@[simp] theorem storeWord_mem_thermal (w d : Nat) : (storeWord s w d).mem.thermal = s.mem.thermal := rfl
@[simp] theorem storeWord_mem_corrected (w d : Nat) : (storeWord s w d).mem.corrected = s.mem.corrected := rfl
@[simp] theorem storeWord_mem_rowTimes (w d : Nat) : (storeWord s w d).mem.rowTimes = s.mem.rowTimes := rfl
@[simp] theorem storeWord_mem_retired (w d : Nat) : (storeWord s w d).mem.retired = s.mem.retired := rfl
@[simp] theorem storeWord_mem_retireSeq (w d : Nat) : (storeWord s w d).mem.retireSeq = s.mem.retireSeq := rfl
@[simp] theorem storeWord_mem_retained (w d : Nat) : (storeWord s w d).mem.retained = s.mem.retained := rfl
@[simp] theorem storeWord_mem_away (w d : Nat) : (storeWord s w d).mem.away = s.mem.away := rfl

/-! ### Scan engines -/

@[simp] theorem setScan_tiles (q e : Nat) (x : Scan) : (setScan s q e x).tiles = s.tiles := rfl
@[simp] theorem setScan_fields (q e : Nat) (x : Scan) : (setScan s q e x).fields = s.fields := rfl
@[simp] theorem setScan_sync (q e : Nat) (x : Scan) : (setScan s q e x).sync = s.sync := rfl
@[simp] theorem setScan_mem (q e : Nat) (x : Scan) : (setScan s q e x).mem = s.mem := rfl
@[simp] theorem setScan_ports (q e : Nat) (x : Scan) : (setScan s q e x).ports = s.ports := rfl
@[simp] theorem setScan_colls (q e : Nat) (x : Scan) : (setScan s q e x).colls = s.colls := rfl
@[simp] theorem setScan_power (q e : Nat) (x : Scan) : (setScan s q e x).power = s.power := rfl
@[simp] theorem setScan_mgmt (q e : Nat) (x : Scan) : (setScan s q e x).mgmt = s.mgmt := rfl
@[simp] theorem setScan_wb (q e : Nat) (x : Scan) : (setScan s q e x).wb = s.wb := rfl
@[simp] theorem setScan_tap (q e : Nat) (x : Scan) : (setScan s q e x).tap = s.tap := rfl
@[simp] theorem setScan_pending (q e : Nat) (x : Scan) : (setScan s q e x).pending = s.pending := rfl
@[simp] theorem setScan_out (q e : Nat) (x : Scan) : (setScan s q e x).out = s.out := rfl
@[simp] theorem setScan_fresh (q e : Nat) (x : Scan) : (setScan s q e x).fresh = s.fresh := rfl
@[simp] theorem setScan_units_cvus (q e : Nat) (x : Scan) : (setScan s q e x).units.cvus = s.units.cvus := rfl

/-! ### Check-value units -/

@[simp] theorem setCvu_tiles (q u : Nat) (x : Cvu) : (setCvu s q u x).tiles = s.tiles := rfl
@[simp] theorem setCvu_fields (q u : Nat) (x : Cvu) : (setCvu s q u x).fields = s.fields := rfl
@[simp] theorem setCvu_sync (q u : Nat) (x : Cvu) : (setCvu s q u x).sync = s.sync := rfl
@[simp] theorem setCvu_mem (q u : Nat) (x : Cvu) : (setCvu s q u x).mem = s.mem := rfl
@[simp] theorem setCvu_ports (q u : Nat) (x : Cvu) : (setCvu s q u x).ports = s.ports := rfl
@[simp] theorem setCvu_colls (q u : Nat) (x : Cvu) : (setCvu s q u x).colls = s.colls := rfl
@[simp] theorem setCvu_power (q u : Nat) (x : Cvu) : (setCvu s q u x).power = s.power := rfl
@[simp] theorem setCvu_mgmt (q u : Nat) (x : Cvu) : (setCvu s q u x).mgmt = s.mgmt := rfl
@[simp] theorem setCvu_wb (q u : Nat) (x : Cvu) : (setCvu s q u x).wb = s.wb := rfl
@[simp] theorem setCvu_tap (q u : Nat) (x : Cvu) : (setCvu s q u x).tap = s.tap := rfl
@[simp] theorem setCvu_pending (q u : Nat) (x : Cvu) : (setCvu s q u x).pending = s.pending := rfl
@[simp] theorem setCvu_out (q u : Nat) (x : Cvu) : (setCvu s q u x).out = s.out := rfl
@[simp] theorem setCvu_fresh (q u : Nat) (x : Cvu) : (setCvu s q u x).fresh = s.fresh := rfl
@[simp] theorem setCvu_units_scans (q u : Nat) (x : Cvu) : (setCvu s q u x).units.scans = s.units.scans := rfl

/-! ### Ports -/

@[simp] theorem setPort_tiles (k : Nat) (p : Port) : (setPort s k p).tiles = s.tiles := rfl
@[simp] theorem setPort_fields (k : Nat) (p : Port) : (setPort s k p).fields = s.fields := rfl
@[simp] theorem setPort_sync (k : Nat) (p : Port) : (setPort s k p).sync = s.sync := rfl
@[simp] theorem setPort_mem (k : Nat) (p : Port) : (setPort s k p).mem = s.mem := rfl
@[simp] theorem setPort_units (k : Nat) (p : Port) : (setPort s k p).units = s.units := rfl
@[simp] theorem setPort_colls (k : Nat) (p : Port) : (setPort s k p).colls = s.colls := rfl
@[simp] theorem setPort_power (k : Nat) (p : Port) : (setPort s k p).power = s.power := rfl
@[simp] theorem setPort_mgmt (k : Nat) (p : Port) : (setPort s k p).mgmt = s.mgmt := rfl
@[simp] theorem setPort_wb (k : Nat) (p : Port) : (setPort s k p).wb = s.wb := rfl
@[simp] theorem setPort_tap (k : Nat) (p : Port) : (setPort s k p).tap = s.tap := rfl
@[simp] theorem setPort_pending (k : Nat) (p : Port) : (setPort s k p).pending = s.pending := rfl
@[simp] theorem setPort_out (k : Nat) (p : Port) : (setPort s k p).out = s.out := rfl
@[simp] theorem setPort_fresh (k : Nat) (p : Port) : (setPort s k p).fresh = s.fresh := rfl
@[simp] theorem setPort_ports_h0State (k : Nat) (p : Port) : (setPort s k p).ports.h0State = s.ports.h0State := rfl
@[simp] theorem setPort_ports_h0Lanes (k : Nat) (p : Port) : (setPort s k p).ports.h0Lanes = s.ports.h0Lanes := rfl
@[simp] theorem setPort_ports_h0Last (k : Nat) (p : Port) : (setPort s k p).ports.h0Last = s.ports.h0Last := rfl
@[simp] theorem setPort_ports_h0Counters (k : Nat) (p : Port) : (setPort s k p).ports.h0Counters = s.ports.h0Counters := rfl
@[simp] theorem setPort_ports_paused (k : Nat) (p : Port) : (setPort s k p).ports.paused = s.ports.paused := rfl
@[simp] theorem setPort_ports_held (k : Nat) (p : Port) : (setPort s k p).ports.held = s.ports.held := rfl
@[simp] theorem setPort_ports_pausing (k : Nat) (p : Port) : (setPort s k p).ports.pausing = s.ports.pausing := rfl
@[simp] theorem setPort_ports_stalled (k : Nat) (p : Port) : (setPort s k p).ports.stalled = s.ports.stalled := rfl
@[simp] theorem setPort_ports_net (k : Nat) (p : Port) : (setPort s k p).ports.net = s.ports.net := rfl
@[simp] theorem setPort_ports_qps (k : Nat) (p : Port) : (setPort s k p).ports.qps = s.ports.qps := rfl
@[simp] theorem setPort_ports_rings (k : Nat) (p : Port) : (setPort s k p).ports.rings = s.ports.rings := rfl
@[simp] theorem setPort_ports_h0Fitted (k : Nat) (p : Port) : (setPort s k p).ports.h0Fitted = s.ports.h0Fitted := rfl
@[simp] theorem setPort_ports_fitted (k : Nat) (p : Port) : (setPort s k p).ports.fitted = s.ports.fitted := rfl
@[simp] theorem setPort_ports_boardPort (k : Nat) (p : Port) : (setPort s k p).ports.boardPort = s.ports.boardPort := rfl
@[simp] theorem setPort_ports_board (k : Nat) (p : Port) : (setPort s k p).ports.board = s.ports.board := rfl
@[simp] theorem setPort_ports_h0Snapshot (k : Nat) (p : Port) : (setPort s k p).ports.h0Snapshot = s.ports.h0Snapshot := rfl

@[simp] theorem bumpPort_tiles (k i : Nat) : (bumpPort s k i).tiles = s.tiles := rfl
@[simp] theorem bumpPort_fields (k i : Nat) : (bumpPort s k i).fields = s.fields := rfl
@[simp] theorem bumpPort_sync (k i : Nat) : (bumpPort s k i).sync = s.sync := rfl
@[simp] theorem bumpPort_mem (k i : Nat) : (bumpPort s k i).mem = s.mem := rfl
@[simp] theorem bumpPort_units (k i : Nat) : (bumpPort s k i).units = s.units := rfl
@[simp] theorem bumpPort_colls (k i : Nat) : (bumpPort s k i).colls = s.colls := rfl
@[simp] theorem bumpPort_power (k i : Nat) : (bumpPort s k i).power = s.power := rfl
@[simp] theorem bumpPort_mgmt (k i : Nat) : (bumpPort s k i).mgmt = s.mgmt := rfl
@[simp] theorem bumpPort_wb (k i : Nat) : (bumpPort s k i).wb = s.wb := rfl
@[simp] theorem bumpPort_tap (k i : Nat) : (bumpPort s k i).tap = s.tap := rfl
@[simp] theorem bumpPort_pending (k i : Nat) : (bumpPort s k i).pending = s.pending := rfl
@[simp] theorem bumpPort_out (k i : Nat) : (bumpPort s k i).out = s.out := rfl
@[simp] theorem bumpPort_fresh (k i : Nat) : (bumpPort s k i).fresh = s.fresh := rfl
@[simp] theorem bumpPort_ports_h0State (k i : Nat) : (bumpPort s k i).ports.h0State = s.ports.h0State := rfl
@[simp] theorem bumpPort_ports_h0Lanes (k i : Nat) : (bumpPort s k i).ports.h0Lanes = s.ports.h0Lanes := rfl
@[simp] theorem bumpPort_ports_h0Last (k i : Nat) : (bumpPort s k i).ports.h0Last = s.ports.h0Last := rfl
@[simp] theorem bumpPort_ports_h0Counters (k i : Nat) : (bumpPort s k i).ports.h0Counters = s.ports.h0Counters := rfl
@[simp] theorem bumpPort_ports_paused (k i : Nat) : (bumpPort s k i).ports.paused = s.ports.paused := rfl
@[simp] theorem bumpPort_ports_held (k i : Nat) : (bumpPort s k i).ports.held = s.ports.held := rfl
@[simp] theorem bumpPort_ports_pausing (k i : Nat) : (bumpPort s k i).ports.pausing = s.ports.pausing := rfl
@[simp] theorem bumpPort_ports_stalled (k i : Nat) : (bumpPort s k i).ports.stalled = s.ports.stalled := rfl
@[simp] theorem bumpPort_ports_net (k i : Nat) : (bumpPort s k i).ports.net = s.ports.net := rfl
@[simp] theorem bumpPort_ports_qps (k i : Nat) : (bumpPort s k i).ports.qps = s.ports.qps := rfl
@[simp] theorem bumpPort_ports_rings (k i : Nat) : (bumpPort s k i).ports.rings = s.ports.rings := rfl
@[simp] theorem bumpPort_ports_h0Fitted (k i : Nat) : (bumpPort s k i).ports.h0Fitted = s.ports.h0Fitted := rfl
@[simp] theorem bumpPort_ports_fitted (k i : Nat) : (bumpPort s k i).ports.fitted = s.ports.fitted := rfl
@[simp] theorem bumpPort_ports_boardPort (k i : Nat) : (bumpPort s k i).ports.boardPort = s.ports.boardPort := rfl
@[simp] theorem bumpPort_ports_board (k i : Nat) : (bumpPort s k i).ports.board = s.ports.board := rfl
@[simp] theorem bumpPort_ports_h0Snapshot (k i : Nat) : (bumpPort s k i).ports.h0Snapshot = s.ports.h0Snapshot := rfl

/-! ### Ring links -/

@[simp] theorem setRing_tiles (l : Nat) (r : Ring) : (setRing s l r).tiles = s.tiles := rfl
@[simp] theorem setRing_fields (l : Nat) (r : Ring) : (setRing s l r).fields = s.fields := rfl
@[simp] theorem setRing_sync (l : Nat) (r : Ring) : (setRing s l r).sync = s.sync := rfl
@[simp] theorem setRing_mem (l : Nat) (r : Ring) : (setRing s l r).mem = s.mem := rfl
@[simp] theorem setRing_units (l : Nat) (r : Ring) : (setRing s l r).units = s.units := rfl
@[simp] theorem setRing_colls (l : Nat) (r : Ring) : (setRing s l r).colls = s.colls := rfl
@[simp] theorem setRing_power (l : Nat) (r : Ring) : (setRing s l r).power = s.power := rfl
@[simp] theorem setRing_mgmt (l : Nat) (r : Ring) : (setRing s l r).mgmt = s.mgmt := rfl
@[simp] theorem setRing_wb (l : Nat) (r : Ring) : (setRing s l r).wb = s.wb := rfl
@[simp] theorem setRing_tap (l : Nat) (r : Ring) : (setRing s l r).tap = s.tap := rfl
@[simp] theorem setRing_pending (l : Nat) (r : Ring) : (setRing s l r).pending = s.pending := rfl
@[simp] theorem setRing_out (l : Nat) (r : Ring) : (setRing s l r).out = s.out := rfl
@[simp] theorem setRing_fresh (l : Nat) (r : Ring) : (setRing s l r).fresh = s.fresh := rfl
@[simp] theorem setRing_ports_h0State (l : Nat) (r : Ring) : (setRing s l r).ports.h0State = s.ports.h0State := rfl
@[simp] theorem setRing_ports_h0Lanes (l : Nat) (r : Ring) : (setRing s l r).ports.h0Lanes = s.ports.h0Lanes := rfl
@[simp] theorem setRing_ports_h0Last (l : Nat) (r : Ring) : (setRing s l r).ports.h0Last = s.ports.h0Last := rfl
@[simp] theorem setRing_ports_h0Counters (l : Nat) (r : Ring) : (setRing s l r).ports.h0Counters = s.ports.h0Counters := rfl
@[simp] theorem setRing_ports_paused (l : Nat) (r : Ring) : (setRing s l r).ports.paused = s.ports.paused := rfl
@[simp] theorem setRing_ports_held (l : Nat) (r : Ring) : (setRing s l r).ports.held = s.ports.held := rfl
@[simp] theorem setRing_ports_pausing (l : Nat) (r : Ring) : (setRing s l r).ports.pausing = s.ports.pausing := rfl
@[simp] theorem setRing_ports_stalled (l : Nat) (r : Ring) : (setRing s l r).ports.stalled = s.ports.stalled := rfl
@[simp] theorem setRing_ports_net (l : Nat) (r : Ring) : (setRing s l r).ports.net = s.ports.net := rfl
@[simp] theorem setRing_ports_qps (l : Nat) (r : Ring) : (setRing s l r).ports.qps = s.ports.qps := rfl
@[simp] theorem setRing_ports_ports (l : Nat) (r : Ring) : (setRing s l r).ports.ports = s.ports.ports := rfl
@[simp] theorem setRing_ports_h0Fitted (l : Nat) (r : Ring) : (setRing s l r).ports.h0Fitted = s.ports.h0Fitted := rfl
@[simp] theorem setRing_ports_fitted (l : Nat) (r : Ring) : (setRing s l r).ports.fitted = s.ports.fitted := rfl
@[simp] theorem setRing_ports_boardPort (l : Nat) (r : Ring) : (setRing s l r).ports.boardPort = s.ports.boardPort := rfl
@[simp] theorem setRing_ports_board (l : Nat) (r : Ring) : (setRing s l r).ports.board = s.ports.board := rfl
@[simp] theorem setRing_ports_h0Snapshot (l : Nat) (r : Ring) : (setRing s l r).ports.h0Snapshot = s.ports.h0Snapshot := rfl

/-! ### H0 -/

@[simp] theorem bumpH0_tiles (i n : Nat) : (bumpH0 s i n).tiles = s.tiles := rfl
@[simp] theorem bumpH0_fields (i n : Nat) : (bumpH0 s i n).fields = s.fields := rfl
@[simp] theorem bumpH0_sync (i n : Nat) : (bumpH0 s i n).sync = s.sync := rfl
@[simp] theorem bumpH0_mem (i n : Nat) : (bumpH0 s i n).mem = s.mem := rfl
@[simp] theorem bumpH0_units (i n : Nat) : (bumpH0 s i n).units = s.units := rfl
@[simp] theorem bumpH0_colls (i n : Nat) : (bumpH0 s i n).colls = s.colls := rfl
@[simp] theorem bumpH0_power (i n : Nat) : (bumpH0 s i n).power = s.power := rfl
@[simp] theorem bumpH0_mgmt (i n : Nat) : (bumpH0 s i n).mgmt = s.mgmt := rfl
@[simp] theorem bumpH0_wb (i n : Nat) : (bumpH0 s i n).wb = s.wb := rfl
@[simp] theorem bumpH0_tap (i n : Nat) : (bumpH0 s i n).tap = s.tap := rfl
@[simp] theorem bumpH0_pending (i n : Nat) : (bumpH0 s i n).pending = s.pending := rfl
@[simp] theorem bumpH0_out (i n : Nat) : (bumpH0 s i n).out = s.out := rfl
@[simp] theorem bumpH0_fresh (i n : Nat) : (bumpH0 s i n).fresh = s.fresh := rfl
@[simp] theorem bumpH0_ports_h0State (i n : Nat) : (bumpH0 s i n).ports.h0State = s.ports.h0State := rfl
@[simp] theorem bumpH0_ports_h0Lanes (i n : Nat) : (bumpH0 s i n).ports.h0Lanes = s.ports.h0Lanes := rfl
@[simp] theorem bumpH0_ports_h0Last (i n : Nat) : (bumpH0 s i n).ports.h0Last = s.ports.h0Last := rfl
@[simp] theorem bumpH0_ports_paused (i n : Nat) : (bumpH0 s i n).ports.paused = s.ports.paused := rfl
@[simp] theorem bumpH0_ports_held (i n : Nat) : (bumpH0 s i n).ports.held = s.ports.held := rfl
@[simp] theorem bumpH0_ports_pausing (i n : Nat) : (bumpH0 s i n).ports.pausing = s.ports.pausing := rfl
@[simp] theorem bumpH0_ports_stalled (i n : Nat) : (bumpH0 s i n).ports.stalled = s.ports.stalled := rfl
@[simp] theorem bumpH0_ports_net (i n : Nat) : (bumpH0 s i n).ports.net = s.ports.net := rfl
@[simp] theorem bumpH0_ports_qps (i n : Nat) : (bumpH0 s i n).ports.qps = s.ports.qps := rfl
@[simp] theorem bumpH0_ports_ports (i n : Nat) : (bumpH0 s i n).ports.ports = s.ports.ports := rfl
@[simp] theorem bumpH0_ports_rings (i n : Nat) : (bumpH0 s i n).ports.rings = s.ports.rings := rfl
@[simp] theorem bumpH0_ports_h0Fitted (i n : Nat) : (bumpH0 s i n).ports.h0Fitted = s.ports.h0Fitted := rfl
@[simp] theorem bumpH0_ports_fitted (i n : Nat) : (bumpH0 s i n).ports.fitted = s.ports.fitted := rfl
@[simp] theorem bumpH0_ports_boardPort (i n : Nat) : (bumpH0 s i n).ports.boardPort = s.ports.boardPort := rfl
@[simp] theorem bumpH0_ports_board (i n : Nat) : (bumpH0 s i n).ports.board = s.ports.board := rfl
@[simp] theorem bumpH0_ports_h0Snapshot (i n : Nat) : (bumpH0 s i n).ports.h0Snapshot = s.ports.h0Snapshot := rfl

/-! ### Queue pairs -/

@[simp] theorem setQp_tiles (i : Nat) (q : Qp) : (setQp s i q).tiles = s.tiles := rfl
@[simp] theorem setQp_fields (i : Nat) (q : Qp) : (setQp s i q).fields = s.fields := rfl
@[simp] theorem setQp_sync (i : Nat) (q : Qp) : (setQp s i q).sync = s.sync := rfl
@[simp] theorem setQp_mem (i : Nat) (q : Qp) : (setQp s i q).mem = s.mem := rfl
@[simp] theorem setQp_units (i : Nat) (q : Qp) : (setQp s i q).units = s.units := rfl
@[simp] theorem setQp_colls (i : Nat) (q : Qp) : (setQp s i q).colls = s.colls := rfl
@[simp] theorem setQp_power (i : Nat) (q : Qp) : (setQp s i q).power = s.power := rfl
@[simp] theorem setQp_mgmt (i : Nat) (q : Qp) : (setQp s i q).mgmt = s.mgmt := rfl
@[simp] theorem setQp_wb (i : Nat) (q : Qp) : (setQp s i q).wb = s.wb := rfl
@[simp] theorem setQp_tap (i : Nat) (q : Qp) : (setQp s i q).tap = s.tap := rfl
@[simp] theorem setQp_pending (i : Nat) (q : Qp) : (setQp s i q).pending = s.pending := rfl
@[simp] theorem setQp_out (i : Nat) (q : Qp) : (setQp s i q).out = s.out := rfl
@[simp] theorem setQp_fresh (i : Nat) (q : Qp) : (setQp s i q).fresh = s.fresh := rfl
@[simp] theorem setQp_ports_h0State (i : Nat) (q : Qp) : (setQp s i q).ports.h0State = s.ports.h0State := rfl
@[simp] theorem setQp_ports_h0Lanes (i : Nat) (q : Qp) : (setQp s i q).ports.h0Lanes = s.ports.h0Lanes := rfl
@[simp] theorem setQp_ports_h0Last (i : Nat) (q : Qp) : (setQp s i q).ports.h0Last = s.ports.h0Last := rfl
@[simp] theorem setQp_ports_h0Counters (i : Nat) (q : Qp) : (setQp s i q).ports.h0Counters = s.ports.h0Counters := rfl
@[simp] theorem setQp_ports_paused (i : Nat) (q : Qp) : (setQp s i q).ports.paused = s.ports.paused := rfl
@[simp] theorem setQp_ports_held (i : Nat) (q : Qp) : (setQp s i q).ports.held = s.ports.held := rfl
@[simp] theorem setQp_ports_pausing (i : Nat) (q : Qp) : (setQp s i q).ports.pausing = s.ports.pausing := rfl
@[simp] theorem setQp_ports_stalled (i : Nat) (q : Qp) : (setQp s i q).ports.stalled = s.ports.stalled := rfl
@[simp] theorem setQp_ports_net (i : Nat) (q : Qp) : (setQp s i q).ports.net = s.ports.net := rfl
@[simp] theorem setQp_ports_ports (i : Nat) (q : Qp) : (setQp s i q).ports.ports = s.ports.ports := rfl
@[simp] theorem setQp_ports_rings (i : Nat) (q : Qp) : (setQp s i q).ports.rings = s.ports.rings := rfl
@[simp] theorem setQp_ports_h0Fitted (i : Nat) (q : Qp) : (setQp s i q).ports.h0Fitted = s.ports.h0Fitted := rfl
@[simp] theorem setQp_ports_fitted (i : Nat) (q : Qp) : (setQp s i q).ports.fitted = s.ports.fitted := rfl
@[simp] theorem setQp_ports_boardPort (i : Nat) (q : Qp) : (setQp s i q).ports.boardPort = s.ports.boardPort := rfl
@[simp] theorem setQp_ports_board (i : Nat) (q : Qp) : (setQp s i q).ports.board = s.ports.board := rfl
@[simp] theorem setQp_ports_h0Snapshot (i : Nat) (q : Qp) : (setQp s i q).ports.h0Snapshot = s.ports.h0Snapshot := rfl

/-! ### Groups -/

@[simp] theorem setGroup_tiles (n : Nat) (g : Group) : (setGroup s n g).tiles = s.tiles := rfl
@[simp] theorem setGroup_fields (n : Nat) (g : Group) : (setGroup s n g).fields = s.fields := rfl
@[simp] theorem setGroup_sync (n : Nat) (g : Group) : (setGroup s n g).sync = s.sync := rfl
@[simp] theorem setGroup_mem (n : Nat) (g : Group) : (setGroup s n g).mem = s.mem := rfl
@[simp] theorem setGroup_units (n : Nat) (g : Group) : (setGroup s n g).units = s.units := rfl
@[simp] theorem setGroup_ports (n : Nat) (g : Group) : (setGroup s n g).ports = s.ports := rfl
@[simp] theorem setGroup_power (n : Nat) (g : Group) : (setGroup s n g).power = s.power := rfl
@[simp] theorem setGroup_mgmt (n : Nat) (g : Group) : (setGroup s n g).mgmt = s.mgmt := rfl
@[simp] theorem setGroup_wb (n : Nat) (g : Group) : (setGroup s n g).wb = s.wb := rfl
@[simp] theorem setGroup_tap (n : Nat) (g : Group) : (setGroup s n g).tap = s.tap := rfl
@[simp] theorem setGroup_pending (n : Nat) (g : Group) : (setGroup s n g).pending = s.pending := rfl
@[simp] theorem setGroup_out (n : Nat) (g : Group) : (setGroup s n g).out = s.out := rfl
@[simp] theorem setGroup_fresh (n : Nat) (g : Group) : (setGroup s n g).fresh = s.fresh := rfl

/-! ### Quarters -/

@[simp] theorem setQuarter_tiles (q : Nat) (x : Quarter) : (setQuarter s q x).tiles = s.tiles := rfl
@[simp] theorem setQuarter_fields (q : Nat) (x : Quarter) : (setQuarter s q x).fields = s.fields := rfl
@[simp] theorem setQuarter_sync (q : Nat) (x : Quarter) : (setQuarter s q x).sync = s.sync := rfl
@[simp] theorem setQuarter_mem (q : Nat) (x : Quarter) : (setQuarter s q x).mem = s.mem := rfl
@[simp] theorem setQuarter_units (q : Nat) (x : Quarter) : (setQuarter s q x).units = s.units := rfl
@[simp] theorem setQuarter_ports (q : Nat) (x : Quarter) : (setQuarter s q x).ports = s.ports := rfl
@[simp] theorem setQuarter_colls (q : Nat) (x : Quarter) : (setQuarter s q x).colls = s.colls := rfl
@[simp] theorem setQuarter_mgmt (q : Nat) (x : Quarter) : (setQuarter s q x).mgmt = s.mgmt := rfl
@[simp] theorem setQuarter_wb (q : Nat) (x : Quarter) : (setQuarter s q x).wb = s.wb := rfl
@[simp] theorem setQuarter_tap (q : Nat) (x : Quarter) : (setQuarter s q x).tap = s.tap := rfl
@[simp] theorem setQuarter_pending (q : Nat) (x : Quarter) : (setQuarter s q x).pending = s.pending := rfl
@[simp] theorem setQuarter_out (q : Nat) (x : Quarter) : (setQuarter s q x).out = s.out := rfl
@[simp] theorem setQuarter_fresh (q : Nat) (x : Quarter) : (setQuarter s q x).fresh = s.fresh := rfl
@[simp] theorem setQuarter_power_cap (q : Nat) (x : Quarter) : (setQuarter s q x).power.cap = s.power.cap := rfl
@[simp] theorem setQuarter_power_sclk (q : Nat) (x : Quarter) : (setQuarter s q x).power.sclk = s.power.sclk := rfl
@[simp] theorem setQuarter_power_pllLocked (q : Nat) (x : Quarter) : (setQuarter s q x).power.pllLocked = s.power.pllLocked := rfl
@[simp] theorem setQuarter_power_temps (q : Nat) (x : Quarter) : (setQuarter s q x).power.temps = s.power.temps := rfl
@[simp] theorem setQuarter_power_tripped (q : Nat) (x : Quarter) : (setQuarter s q x).power.tripped = s.power.tripped := rfl
@[simp] theorem setQuarter_power_state (q : Nat) (x : Quarter) : (setQuarter s q x).power.state = s.power.state := rfl
@[simp] theorem setQuarter_power_warmDue (q : Nat) (x : Quarter) : (setQuarter s q x).power.warmDue = s.power.warmDue := rfl
@[simp] theorem setQuarter_power_pwrgood (q : Nat) (x : Quarter) : (setQuarter s q x).power.pwrgood = s.power.pwrgood := rfl

/-! ### Work -/

@[simp] theorem countWork_tiles (c n : Nat) : (countWork s c n).tiles = s.tiles := rfl
@[simp] theorem countWork_fields (c n : Nat) : (countWork s c n).fields = s.fields := rfl
@[simp] theorem countWork_sync (c n : Nat) : (countWork s c n).sync = s.sync := rfl
@[simp] theorem countWork_mem (c n : Nat) : (countWork s c n).mem = s.mem := rfl
@[simp] theorem countWork_units (c n : Nat) : (countWork s c n).units = s.units := rfl
@[simp] theorem countWork_ports (c n : Nat) : (countWork s c n).ports = s.ports := rfl
@[simp] theorem countWork_colls (c n : Nat) : (countWork s c n).colls = s.colls := rfl
@[simp] theorem countWork_power (c n : Nat) : (countWork s c n).power = s.power := rfl
@[simp] theorem countWork_mgmt (c n : Nat) : (countWork s c n).mgmt = s.mgmt := rfl
@[simp] theorem countWork_tap (c n : Nat) : (countWork s c n).tap = s.tap := rfl
@[simp] theorem countWork_pending (c n : Nat) : (countWork s c n).pending = s.pending := rfl
@[simp] theorem countWork_out (c n : Nat) : (countWork s c n).out = s.out := rfl
@[simp] theorem countWork_fresh (c n : Nat) : (countWork s c n).fresh = s.fresh := rfl
@[simp] theorem countWork_wb_running (c n : Nat) : (countWork s c n).wb.running = s.wb.running := rfl
@[simp] theorem countWork_wb_utc (c n : Nat) : (countWork s c n).wb.utc = s.wb.utc := rfl
@[simp] theorem countWork_wb_utcAt (c n : Nat) : (countWork s c n).wb.utcAt = s.wb.utcAt := rfl
@[simp] theorem countWork_wb_cals (c n : Nat) : (countWork s c n).wb.cals = s.wb.cals := rfl
@[simp] theorem countWork_wb_checkpoint (c n : Nat) : (countWork s c n).wb.checkpoint = s.wb.checkpoint := rfl
@[simp] theorem countWork_wb_closed (c n : Nat) : (countWork s c n).wb.closed = s.wb.closed := rfl
@[simp] theorem countWork_wb_records (c n : Nat) : (countWork s c n).wb.records = s.wb.records := rfl
@[simp] theorem countWork_wb_nextNumber (c n : Nat) : (countWork s c n).wb.nextNumber = s.wb.nextNumber := rfl
@[simp] theorem countWork_wb_sigNext (c n : Nat) : (countWork s c n).wb.sigNext = s.wb.sigNext := rfl
@[simp] theorem countWork_wb_sigEnd (c n : Nat) : (countWork s c n).wb.sigEnd = s.wb.sigEnd := rfl
@[simp] theorem countWork_wb_auditCount (c n : Nat) : (countWork s c n).wb.auditCount = s.wb.auditCount := rfl
@[simp] theorem countWork_wb_audits (c n : Nat) : (countWork s c n).wb.audits = s.wb.audits := rfl
@[simp] theorem countWork_wb_challenge (c n : Nat) : (countWork s c n).wb.challenge = s.wb.challenge := rfl
@[simp] theorem countWork_wb_restarting (c n : Nat) : (countWork s c n).wb.restarting = s.wb.restarting := rfl
@[simp] theorem countWork_wb_waiting (c n : Nat) : (countWork s c n).wb.waiting = s.wb.waiting := rfl

/-! ### Sessions -/

@[simp] theorem withSession_tiles (src : Src) (f : Session → Session) : (withSession s src f).tiles = s.tiles := rfl
@[simp] theorem withSession_fields (src : Src) (f : Session → Session) : (withSession s src f).fields = s.fields := rfl
@[simp] theorem withSession_sync (src : Src) (f : Session → Session) : (withSession s src f).sync = s.sync := rfl
@[simp] theorem withSession_mem (src : Src) (f : Session → Session) : (withSession s src f).mem = s.mem := rfl
@[simp] theorem withSession_units (src : Src) (f : Session → Session) : (withSession s src f).units = s.units := rfl
@[simp] theorem withSession_ports (src : Src) (f : Session → Session) : (withSession s src f).ports = s.ports := rfl
@[simp] theorem withSession_colls (src : Src) (f : Session → Session) : (withSession s src f).colls = s.colls := rfl
@[simp] theorem withSession_power (src : Src) (f : Session → Session) : (withSession s src f).power = s.power := rfl
@[simp] theorem withSession_wb (src : Src) (f : Session → Session) : (withSession s src f).wb = s.wb := rfl
@[simp] theorem withSession_tap (src : Src) (f : Session → Session) : (withSession s src f).tap = s.tap := rfl
@[simp] theorem withSession_pending (src : Src) (f : Session → Session) : (withSession s src f).pending = s.pending := rfl
@[simp] theorem withSession_out (src : Src) (f : Session → Session) : (withSession s src f).out = s.out := rfl
@[simp] theorem withSession_fresh (src : Src) (f : Session → Session) : (withSession s src f).fresh = s.fresh := rfl
@[simp] theorem withSession_mgmt_service (src : Src) (f : Session → Session) : (withSession s src f).mgmt.service = s.mgmt.service := rfl
@[simp] theorem withSession_mgmt_passage (src : Src) (f : Session → Session) : (withSession s src f).mgmt.passage = s.mgmt.passage := rfl
@[simp] theorem withSession_mgmt_trained (src : Src) (f : Session → Session) : (withSession s src f).mgmt.trained = s.mgmt.trained := rfl
@[simp] theorem withSession_mgmt_capWord (src : Src) (f : Session → Session) : (withSession s src f).mgmt.capWord = s.mgmt.capWord := rfl
@[simp] theorem withSession_mgmt_eid (src : Src) (f : Session → Session) : (withSession s src f).mgmt.eid = s.mgmt.eid := rfl
@[simp] theorem withSession_mgmt_release (src : Src) (f : Session → Session) : (withSession s src f).mgmt.release = s.mgmt.release := rfl
@[simp] theorem withSession_mgmt_bundle (src : Src) (f : Session → Session) : (withSession s src f).mgmt.bundle = s.mgmt.bundle := rfl
@[simp] theorem withSession_mgmt_dropped (src : Src) (f : Session → Session) : (withSession s src f).mgmt.dropped = s.mgmt.dropped := rfl
@[simp] theorem withSession_mgmt_foreign (src : Src) (f : Session → Session) : (withSession s src f).mgmt.foreign = s.mgmt.foreign := rfl
@[simp] theorem withSession_mgmt_restarts (src : Src) (f : Session → Session) : (withSession s src f).mgmt.restarts = s.mgmt.restarts := rfl
@[simp] theorem withSession_mgmt_restarting (src : Src) (f : Session → Session) : (withSession s src f).mgmt.restarting = s.mgmt.restarting := rfl
@[simp] theorem withSession_mgmt_waiting (src : Src) (f : Session → Session) : (withSession s src f).mgmt.waiting = s.mgmt.waiting := rfl
@[simp] theorem withSession_mgmt_parked (src : Src) (f : Session → Session) : (withSession s src f).mgmt.parked = s.mgmt.parked := rfl
@[simp] theorem withSession_mgmt_waitBytes (src : Src) (f : Session → Session) : (withSession s src f).mgmt.waitBytes = s.mgmt.waitBytes := rfl
@[simp] theorem withSession_mgmt_slots (src : Src) (f : Session → Session) : (withSession s src f).mgmt.slots = s.mgmt.slots := rfl
@[simp] theorem withSession_mgmt_active (src : Src) (f : Session → Session) : (withSession s src f).mgmt.active = s.mgmt.active := rfl
@[simp] theorem withSession_mgmt_pendingFw (src : Src) (f : Session → Session) : (withSession s src f).mgmt.pendingFw = s.mgmt.pendingFw := rfl
@[simp] theorem withSession_mgmt_standing (src : Src) (f : Session → Session) : (withSession s src f).mgmt.standing = s.mgmt.standing := rfl
@[simp] theorem withSession_mgmt_standMark (src : Src) (f : Session → Session) : (withSession s src f).mgmt.standMark = s.mgmt.standMark := rfl
@[simp] theorem withSession_mgmt_standWrite (src : Src) (f : Session → Session) : (withSession s src f).mgmt.standWrite = s.mgmt.standWrite := rfl
@[simp] theorem withSession_mgmt_imageKey (src : Src) (f : Session → Session) : (withSession s src f).mgmt.imageKey = s.mgmt.imageKey := rfl
@[simp] theorem withSession_mgmt_netRecord (src : Src) (f : Session → Session) : (withSession s src f).mgmt.netRecord = s.mgmt.netRecord := rfl
@[simp] theorem withSession_mgmt_sigEnd (src : Src) (f : Session → Session) : (withSession s src f).mgmt.sigEnd = s.mgmt.sigEnd := rfl
@[simp] theorem withSession_mgmt_sigNext (src : Src) (f : Session → Session) : (withSession s src f).mgmt.sigNext = s.mgmt.sigNext := rfl
@[simp] theorem withSession_mgmt_trees (src : Src) (f : Session → Session) : (withSession s src f).mgmt.trees = s.mgmt.trees := rfl
@[simp] theorem withSession_mgmt_fuses (src : Src) (f : Session → Session) : (withSession s src f).mgmt.fuses = s.mgmt.fuses := rfl
@[simp] theorem withSession_mgmt_buffer (src : Src) (f : Session → Session) : (withSession s src f).mgmt.buffer = s.mgmt.buffer := rfl
@[simp] theorem withSession_mgmt_log (src : Src) (f : Session → Session) : (withSession s src f).mgmt.log = s.mgmt.log := rfl
@[simp] theorem withSession_mgmt_nextRecord (src : Src) (f : Session → Session) : (withSession s src f).mgmt.nextRecord = s.mgmt.nextRecord := rfl
@[simp] theorem withSession_mgmt_lostFaults (src : Src) (f : Session → Session) : (withSession s src f).mgmt.lostFaults = s.mgmt.lostFaults := rfl
@[simp] theorem withSession_mgmt_pack (src : Src) (f : Session → Session) : (withSession s src f).mgmt.pack = s.mgmt.pack := rfl
@[simp] theorem withSession_mgmt_challenge (src : Src) (f : Session → Session) : (withSession s src f).mgmt.challenge = s.mgmt.challenge := rfl
@[simp] theorem withSession_mgmt_scopes (src : Src) (f : Session → Session) : (withSession s src f).mgmt.scopes = s.mgmt.scopes := rfl
@[simp] theorem withSession_mgmt_resetReply (src : Src) (f : Session → Session) : (withSession s src f).mgmt.resetReply = s.mgmt.resetReply := rfl

/-! ### Test access -/

@[simp] theorem setTap_tiles (d code : Nat) : (setTap s d code).tiles = s.tiles := rfl
@[simp] theorem setTap_fields (d code : Nat) : (setTap s d code).fields = s.fields := rfl
@[simp] theorem setTap_sync (d code : Nat) : (setTap s d code).sync = s.sync := rfl
@[simp] theorem setTap_mem (d code : Nat) : (setTap s d code).mem = s.mem := rfl
@[simp] theorem setTap_units (d code : Nat) : (setTap s d code).units = s.units := rfl
@[simp] theorem setTap_ports (d code : Nat) : (setTap s d code).ports = s.ports := rfl
@[simp] theorem setTap_colls (d code : Nat) : (setTap s d code).colls = s.colls := rfl
@[simp] theorem setTap_power (d code : Nat) : (setTap s d code).power = s.power := rfl
@[simp] theorem setTap_mgmt (d code : Nat) : (setTap s d code).mgmt = s.mgmt := rfl
@[simp] theorem setTap_wb (d code : Nat) : (setTap s d code).wb = s.wb := rfl
@[simp] theorem setTap_pending (d code : Nat) : (setTap s d code).pending = s.pending := rfl
@[simp] theorem setTap_out (d code : Nat) : (setTap s d code).out = s.out := rfl
@[simp] theorem setTap_fresh (d code : Nat) : (setTap s d code).fresh = s.fresh := rfl

/-! ### What is read where it was written, and elsewhere -/

@[simp] theorem ctxOf_setCtx (t c : Nat) (x : Ctx) : ctxOf (setCtx s t c x) t c = x := SMap.get_set_same ..
theorem ctxOf_setCtx_other {t c t' c' : Nat} (x : Ctx) (h : 16 * t' + c' ≠ 16 * t + c) : ctxOf (setCtx s t c x) t' c' = ctxOf s t' c' :=
  SMap.get_set_other _ _ _ h
@[simp] theorem setCtx_setCtx (t c : Nat) (x y : Ctx) : setCtx (setCtx s t c x) t c y = setCtx s t c y := by simp [setCtx]
@[simp] theorem ctxOf_issued (t c : Nat) : ctxOf (issued s t c) t c = { ctxOf s t c with state := .running, latched := [] } := SMap.get_set_same ..
@[simp] theorem queueOf_setQueue (t f : Nat) (q : Queue) : queueOf (setQueue s t f q) t f = q := SMap.get_set_same ..
theorem queueOf_setQueue_other {t f t' f' : Nat} (q : Queue) (h : 16 * t' + f' ≠ 16 * t + f) :
    queueOf (setQueue s t f q) t' f' = queueOf s t' f' := SMap.get_set_other _ _ _ h
@[simp] theorem barrierOf_setBarrier (q u : Nat) (b : Barrier) : barrierOf (setBarrier s q u b) q u = b := SMap.get_set_same ..
theorem barrierOf_setBarrier_other {q u q' u' : Nat} (b : Barrier) (h : 64 * q' + u' ≠ 64 * q + u) :
    barrierOf (setBarrier s q u b) q' u' = barrierOf s q' u' := SMap.get_set_other _ _ _ h
@[simp] theorem loftOf_setLoft (q : Nat) (l : Loft) : loftOf (setLoft s q l) q = l := SMap.get_set_same ..
theorem loftOf_setLoft_other {q q' : Nat} (l : Loft) (h : q' ≠ q) : loftOf (setLoft s q l) q' = loftOf s q' := SMap.get_set_other _ _ _ h
@[simp] theorem channelAt_setChannel (c : Nat) (x : Channel) : channelAt (setChannel s c x) c = x := SMap.get_set_same ..
theorem channelAt_setChannel_other {c c' : Nat} (x : Channel) (h : c' ≠ c) : channelAt (setChannel s c x) c' = channelAt s c' :=
  SMap.get_set_other _ _ _ h
@[simp] theorem scanOf_setScan (q e : Nat) (x : Scan) : scanOf (setScan s q e x) q e = x := SMap.get_set_same ..
theorem scanOf_setScan_other {q e q' e' : Nat} (x : Scan) (h : 2 * q' + e' ≠ 2 * q + e) : scanOf (setScan s q e x) q' e' = scanOf s q' e' :=
  SMap.get_set_other _ _ _ h
@[simp] theorem cvuOf_setCvu (q u : Nat) (x : Cvu) : cvuOf (setCvu s q u x) q u = x := SMap.get_set_same ..
theorem cvuOf_setCvu_other {q u q' u' : Nat} (x : Cvu) (h : 4 * q' + u' ≠ 4 * q + u) : cvuOf (setCvu s q u x) q' u' = cvuOf s q' u' :=
  SMap.get_set_other _ _ _ h
@[simp] theorem portOf_setPort (k : Nat) (p : Port) : portOf (setPort s k p) k = p := SMap.get_set_same ..
theorem portOf_setPort_other {k k' : Nat} (p : Port) (h : k' ≠ k) : portOf (setPort s k p) k' = portOf s k' := SMap.get_set_other _ _ _ h
@[simp] theorem setPort_setPort (k : Nat) (p q : Port) : setPort (setPort s k p) k q = setPort s k q := by simp [setPort]
@[simp] theorem ringOf_setRing (l : Nat) (r : Ring) : ringOf (setRing s l r) l = r := SMap.get_set_same ..
theorem ringOf_setRing_other {l l' : Nat} (r : Ring) (h : l' ≠ l) : ringOf (setRing s l r) l' = ringOf s l' := SMap.get_set_other _ _ _ h
@[simp] theorem qpOf_setQp (i : Nat) (q : Qp) : qpOf (setQp s i q) i = some q := by
  unfold qpOf setQp; simp
theorem qpOf_setQp_other {i j : Nat} (q : Qp) (h : j ≠ i) : qpOf (setQp s i q) j = qpOf s j := by
  unfold qpOf setQp; simp [SMap.get_set_other, h]
@[simp] theorem groupOf_setGroup (n : Nat) (g : Group) : groupOf (setGroup s n g) n = some g := by
  unfold groupOf setGroup; simp
theorem groupOf_setGroup_other {n m : Nat} (g : Group) (h : m ≠ n) : groupOf (setGroup s n g) m = groupOf s m := by
  unfold groupOf setGroup; simp [SMap.get_set_other, h]
@[simp] theorem quarterOf_setQuarter (q : Nat) (x : Quarter) : quarterOf (setQuarter s q x) q = x := SMap.get_set_same ..
theorem quarterOf_setQuarter_other {q p : Nat} (x : Quarter) (h : p ≠ q) : quarterOf (setQuarter s q x) p = quarterOf s p :=
  SMap.get_set_other _ _ _ h
@[simp] theorem tapOf_setTap (d code : Nat) : tapOf (setTap s d code) d = code := SMap.get_set_same ..
theorem tapOf_setTap_other {d e : Nat} (code : Nat) (h : e ≠ d) : tapOf (setTap s d code) e = tapOf s e := SMap.get_set_other _ _ _ h

end Sys2Proof.Machine
end

