-- ==== Sys2Proof/Laws/Memory.lean ====
section
/-! SUPPORT. Memory's bytes: what reading finds after a write, and that every operation keeps the canonical form. -/
namespace Sys2Proof.Machine

/-! ### One byte -/

@[simp] theorem cellAt_cellSet_same (cs : List Host.Cell) (a : Nat) (v : Byte) : cellAt (cellSet cs a v) a = some v := by
  induction cs with
  | nil => simp [cellSet, cellAt]
  | cons c cs ih =>
    obtain ⟨k, w⟩ := c
    unfold cellSet
    split
    · simp [cellAt]
    · split
      · simp [cellAt]
      · simp [cellAt, *]

theorem cellAt_cellSet_other (cs : List Host.Cell) {a b : Nat} (v : Byte) (h : b ≠ a) : cellAt (cellSet cs a v) b = cellAt cs b := by
  induction cs with
  | nil => simp [cellSet, cellAt, Ne.symm h]
  | cons c cs ih =>
    obtain ⟨k, w⟩ := c
    unfold cellSet
    split
    · rename_i hk; simp [cellAt, hk, Ne.symm h]
    · split
      · simp [cellAt, Ne.symm h]
      · simp [cellAt, ih]

theorem cellAt_filter (cs : List Host.Cell) (p : Nat → Bool) (a : Nat) :
    cellAt (cs.filter fun c => p c.1) a = if p a then cellAt cs a else none := by
  induction cs with
  | nil => simp [cellAt]
  | cons c cs ih =>
    obtain ⟨k, w⟩ := c
    simp only [List.filter_cons]
    by_cases hk : k = a
    · subst hk
      by_cases hp : p k = true <;> simp [hp, cellAt, ih]
    · by_cases hp : p k = true <;> simp [hp, cellAt, ih, hk]

theorem Bytes.cells_write (b : Bytes) (a : Nat) (v : Byte) :
    (b.write a v).cells = if b.unlisted a = some v then cellErase b.cells a else cellSet b.cells a v := rfl

@[simp] theorem Bytes.read_write_same (b : Bytes) (a : Nat) (v : Byte) : (b.write a v).read a = v := by
  by_cases h : b.unlisted a = some v
  · have hc : cellAt (b.write a v).cells a = none := by
      rw [Bytes.cells_write, if_pos h]
      simp [cellErase, cellAt_filter (p := fun k => k != a)]
    have hu : (b.write a v).unlisted a = some v := h
    unfold Bytes.read
    rw [hc, hu]
    rfl
  · have hc : cellAt (b.write a v).cells a = some v := by rw [Bytes.cells_write, if_neg h]; simp
    unfold Bytes.read
    rw [hc]

theorem Bytes.read_write_other (b : Bytes) {a c : Nat} (v : Byte) (h : c ≠ a) : (b.write a v).read c = b.read c := by
  have hc : cellAt (b.write a v).cells c = cellAt b.cells c := by
    rw [Bytes.cells_write]
    split
    · simp [cellErase, cellAt_filter (p := fun k => k != a), h]
    · exact cellAt_cellSet_other _ v h
  unfold Bytes.read
  rw [hc]
  rfl

@[simp] theorem Bytes.write_zeroed (b : Bytes) (a : Nat) (v : Byte) : (b.write a v).zeroed = b.zeroed := rfl
@[simp] theorem Bytes.write_era (b : Bytes) (a : Nat) (v : Byte) : (b.write a v).era = b.era := rfl
@[simp] theorem Bytes.write_unlisted (b : Bytes) (a c : Nat) (v : Byte) : (b.write a v).unlisted c = b.unlisted c := rfl

/-! ### Runs of bytes -/

@[simp] theorem Bytes.writeRun_zeroed (b : Bytes) (a : Nat) (vs : List Byte) : (b.writeRun a vs).zeroed = b.zeroed := by
  induction vs generalizing a b with
  | nil => rfl
  | cons v vs ih => simp [Bytes.writeRun, ih]
@[simp] theorem Bytes.writeRun_era (b : Bytes) (a : Nat) (vs : List Byte) : (b.writeRun a vs).era = b.era := by
  induction vs generalizing a b with
  | nil => rfl
  | cons v vs ih => simp [Bytes.writeRun, ih]

/-- A run of bytes reads as written within it and as before outside it. -/
theorem Bytes.read_writeRun (b : Bytes) (a : Nat) (vs : List Byte) (c : Nat) :
    (b.writeRun a vs).read c = if a ≤ c ∧ c < a + vs.length then vs.getD (c - a) 0 else b.read c := by
  induction vs generalizing a b with
  | nil =>
    rw [if_neg (by simp only [List.length_nil]; omega)]
    rfl
  | cons v vs ih =>
    rw [Bytes.writeRun, ih]
    by_cases h1 : c = a
    · subst h1
      rw [if_neg (by omega), if_pos ⟨Nat.le_refl _, by simp only [List.length_cons]; omega⟩, Nat.sub_self,
        Bytes.read_write_same]
      rfl
    · rw [Bytes.read_write_other _ _ h1]
      by_cases h2 : a ≤ c ∧ c < a + (vs.length + 1)
      · have h3 : a + 1 ≤ c ∧ c < a + 1 + vs.length := by omega
        rw [if_pos h3, if_pos (by simpa using h2)]
        have : c - a = (c - (a + 1)) + 1 := by omega
        rw [this]; simp
      · have h3 : ¬ (a + 1 ≤ c ∧ c < a + 1 + vs.length) := by omega
        rw [if_neg h3, if_neg (by simpa using h2)]

/-- Two runs that follow each other are one run. -/
theorem Bytes.writeRun_append (b : Bytes) (a : Nat) (us vs : List Byte) :
    b.writeRun a (us ++ vs) = (b.writeRun a us).writeRun (a + us.length) vs := by
  induction us generalizing a b with
  | nil => rfl
  | cons u us ih => simp [Bytes.writeRun, ih, Nat.add_assoc, Nat.add_comm 1]

/-! ### The canonical form -/

theorem cellsSorted_iff (cs : List Host.Cell) : cellsSorted cs = true ↔ cs.Pairwise (fun c d => c.1 < d.1) := by
  induction cs with
  | nil => simp [cellsSorted]
  | cons c cs ih =>
    obtain ⟨a, v⟩ := c
    cases cs with
    | nil => simp [cellsSorted]
    | cons d ds =>
      obtain ⟨b, w⟩ := d
      simp only [cellsSorted, Bool.and_eq_true, decide_eq_true_eq, ih, List.pairwise_cons]
      constructor
      · rintro ⟨hab, hd, hp⟩
        refine ⟨?_, hd, hp⟩
        intro e he
        rcases List.mem_cons.mp he with rfl | he
        · exact hab
        · exact Nat.lt_trans hab (hd e he)
      · rintro ⟨h1, hd, hp⟩
        exact ⟨h1 _ (List.mem_cons_self ..), hd, hp⟩

theorem Bytes.wf_iff (b : Bytes) :
    b.wf = true ↔ b.cells.Pairwise (fun c d => c.1 < d.1) ∧ ∀ c ∈ b.cells, b.unlisted c.1 ≠ some c.2 := by
  simp [Bytes.wf, cellsSorted_iff]

theorem mem_cellSet {cs : List Host.Cell} {a : Nat} {v : Byte} {c : Host.Cell} (h : c ∈ cellSet cs a v) : c = (a, v) ∨ c ∈ cs := by
  induction cs with
  | nil => simp [cellSet] at h; exact .inl h
  | cons d cs ih =>
    obtain ⟨k, w⟩ := d
    unfold cellSet at h
    split at h
    · rcases List.mem_cons.mp h with h | h
      · exact .inl h
      · exact .inr (List.mem_cons_of_mem _ h)
    · split at h
      · rcases List.mem_cons.mp h with h | h
        · exact .inl h
        · exact .inr h
      · rcases List.mem_cons.mp h with h | h
        · exact .inr (h ▸ List.mem_cons_self ..)
        · rcases ih h with h | h
          · exact .inl h
          · exact .inr (List.mem_cons_of_mem _ h)

theorem cellSet_sorted {cs : List Host.Cell} (a : Nat) (v : Byte) (h : cs.Pairwise (fun c d => c.1 < d.1)) :
    (cellSet cs a v).Pairwise (fun c d => c.1 < d.1) := by
  induction cs with
  | nil => simp [cellSet]
  | cons d cs ih =>
    obtain ⟨k, w⟩ := d
    obtain ⟨h1, h2⟩ := List.pairwise_cons.mp h
    unfold cellSet
    split
    · rename_i hk
      subst hk
      exact List.pairwise_cons.mpr ⟨h1, h2⟩
    · split
      · rename_i _ hlt
        refine List.pairwise_cons.mpr ⟨?_, h⟩
        intro c hc
        rcases List.mem_cons.mp hc with rfl | hc
        · exact hlt
        · exact Nat.lt_trans hlt (h1 c hc)
      · rename_i hne hle
        refine List.pairwise_cons.mpr ⟨?_, ih h2⟩
        intro c hc
        rcases mem_cellSet hc with rfl | hc
        · show k < a
          omega
        · exact h1 c hc

/-- Removing cells keeps the canonical form. -/
theorem Bytes.filter_wf {b : Bytes} (p : Host.Cell → Bool) (h : b.wf = true) : ({ b with cells := b.cells.filter p } : Bytes).wf = true := by
  rw [Bytes.wf_iff] at h ⊢
  exact ⟨h.1.filter _, fun c hc => h.2 c (List.mem_filter.mp hc).1⟩

theorem Bytes.write_wf {b : Bytes} (a : Nat) (v : Byte) (h : b.wf = true) : (b.write a v).wf = true := by
  unfold Bytes.write
  split
  · exact Bytes.filter_wf _ h
  · rename_i hv
    rw [Bytes.wf_iff] at h ⊢
    refine ⟨cellSet_sorted a v h.1, fun c hc => ?_⟩
    rcases mem_cellSet hc with rfl | hc
    · exact hv
    · exact h.2 c hc

theorem Bytes.writeRun_wf {b : Bytes} (a : Nat) (vs : List Byte) (h : b.wf = true) : (b.writeRun a vs).wf = true := by
  induction vs generalizing a b with
  | nil => exact h
  | cons v vs ih => exact ih _ (Bytes.write_wf a v h)

theorem Bytes.drop_wf {b : Bytes} (lo hi : Nat) (h : b.wf = true) : (b.drop lo hi).wf = true := Bytes.filter_wf _ h

/-- What zeroing a bank makes of an address that nothing lists. -/
theorem Bytes.unlisted_zeroBank (b : Bytes) (bank a : Nat) :
    (b.zeroBank bank).unlisted a = if scratchBase ≤ a ∧ (a - scratchBase) / 0x20000 = bank then some 0 else b.unlisted a := by
  have hz : ∀ x, (b.zeroBank bank).zeroed.contains x = (x == bank || b.zeroed.contains x) := by
    intro x
    show (if b.zeroed.contains bank then b.zeroed else bank :: b.zeroed).contains x = _
    split
    · rename_i h
      by_cases hx : x = bank
      · subst hx; rw [h]; simp
      · have : (x == bank) = false := by simp [hx]
        rw [this]; rfl
    · rw [List.contains_cons]
  unfold Bytes.unlisted
  rw [hz]
  by_cases h1 : scratchBase ≤ a <;> by_cases h2 : (a - scratchBase) / 0x20000 = bank <;> simp [h1, h2]

/-- Zeroing a bank keeps the canonical form: what it lists in the bank goes, and nothing else becomes unlisted. -/
theorem Bytes.zeroBank_wf {b : Bytes} (bank : Nat) (h : b.wf = true) : (b.zeroBank bank).wf = true := by
  rw [Bytes.wf_iff] at h ⊢
  refine ⟨h.1.filter _, fun c hc => ?_⟩
  obtain ⟨hc, hp⟩ := List.mem_filter.mp hc
  simp only [Bool.or_eq_true, decide_eq_true_eq] at hp
  rw [Bytes.unlisted_zeroBank, if_neg (by omega)]
  exact h.2 c hc

/-- A bank that is zeroed reads as zero. -/
theorem Bytes.read_zeroBank (b : Bytes) (bank a : Nat) (h1 : scratchBase + 0x20000 * bank ≤ a) (h2 : a < scratchBase + 0x20000 * bank + 0x20000) :
    (b.zeroBank bank).read a = 0 := by
  have hc : cellAt (b.zeroBank bank).cells a = none := by
    show cellAt (b.cells.filter fun c => c.1 < scratchBase + 0x20000 * bank || scratchBase + 0x20000 * bank + 0x20000 ≤ c.1) a = none
    rw [cellAt_filter (p := fun k => k < scratchBase + 0x20000 * bank || scratchBase + 0x20000 * bank + 0x20000 ≤ k), if_neg]
    simp only [Bool.or_eq_true, decide_eq_true_eq]
    omega
  unfold Bytes.read
  rw [hc, Bytes.unlisted_zeroBank, if_pos (by omega)]
  rfl

/-! ### Numbers -/

/-- A bit of a little-endian number is a bit of one byte (00 R8). -/
theorem leNat_testBit (bs : List Byte) (i : Nat) : (leNat bs).testBit i = (bs.getD (i / 8) 0).toNat.testBit (i % 8) := by
  induction bs generalizing i with
  | nil => simp [leNat]
  | cons b bs ih =>
    have hb : b.toNat < 2 ^ 8 := b.isLt
    have he : leNat (b :: bs) = 2 ^ 8 * leNat bs + b.toNat := by rw [leNat]; omega
    rw [he, Nat.testBit_two_pow_mul_add _ hb]
    split
    next h => rw [Nat.div_eq_of_lt h, Nat.mod_eq_of_lt h]; rfl
    next h =>
      have h8 : i / 8 = (i - 8) / 8 + 1 := by omega
      have hm : i % 8 = (i - 8) % 8 := by omega
      rw [ih, h8, hm]; rfl

end Sys2Proof.Machine
end

