-- ==== Sys2Proof/Laws/Access.lean ====
section
/-! SUPPORT. The shared accesses: what a read and a write of a run may change, what they do to memory that reads well, and that
each keeps memory's canonical form. -/
namespace Sys2Proof.Machine

/-! ### Fault records -/

/-- Writing a record changes nothing but the management processor's record registers. -/
theorem logFault_eq (s : State) (r : Fault16) : logFault s r = { s with mgmt := { s.mgmt with
    buffer := (logFault s r).mgmt.buffer, log := (logFault s r).mgmt.log, nextRecord := (logFault s r).mgmt.nextRecord
    lostFaults := (logFault s r).mgmt.lostFaults } } := by
  unfold logFault
  split
  · rfl
  · split <;> rfl

@[simp] theorem logFault_tiles (s : State) (r : Fault16) : (logFault s r).tiles = s.tiles := by rw [logFault_eq]
@[simp] theorem logFault_fields (s : State) (r : Fault16) : (logFault s r).fields = s.fields := by rw [logFault_eq]
@[simp] theorem logFault_sync (s : State) (r : Fault16) : (logFault s r).sync = s.sync := by rw [logFault_eq]
@[simp] theorem logFault_mem (s : State) (r : Fault16) : (logFault s r).mem = s.mem := by rw [logFault_eq]
@[simp] theorem logFault_units (s : State) (r : Fault16) : (logFault s r).units = s.units := by rw [logFault_eq]
@[simp] theorem logFault_ports (s : State) (r : Fault16) : (logFault s r).ports = s.ports := by rw [logFault_eq]
@[simp] theorem logFault_colls (s : State) (r : Fault16) : (logFault s r).colls = s.colls := by rw [logFault_eq]
@[simp] theorem logFault_power (s : State) (r : Fault16) : (logFault s r).power = s.power := by rw [logFault_eq]
@[simp] theorem logFault_wb (s : State) (r : Fault16) : (logFault s r).wb = s.wb := by rw [logFault_eq]
@[simp] theorem logFault_tap (s : State) (r : Fault16) : (logFault s r).tap = s.tap := by rw [logFault_eq]
@[simp] theorem logFault_pending (s : State) (r : Fault16) : (logFault s r).pending = s.pending := by rw [logFault_eq]
@[simp] theorem logFault_out (s : State) (r : Fault16) : (logFault s r).out = s.out := by rw [logFault_eq]
@[simp] theorem logFault_fresh (s : State) (r : Fault16) : (logFault s r).fresh = s.fresh := by rw [logFault_eq]

@[simp] theorem badWordFault_mem (s : State) (r : Fault16) (w : Nat) : (badWordFault s r w).mem = s.mem := by simp [badWordFault]
@[simp] theorem refusedAccess_mem (s : State) (src q a : Nat) (st : Status) : (refusedAccess s src q a st).mem = s.mem := by
  simp [refusedAccess]

/-! ### Folds -/

/-- What every step of a fold keeps, the fold keeps. -/
theorem foldl_keeps {α β : Type} (p : β → Prop) (f : β → α → β) (hf : ∀ b a, p b → p (f b a)) (l : List α) (b : β) (h : p b) :
    p (l.foldl f b) := by
  induction l generalizing b with
  | nil => exact h
  | cons a l ih => exact ih _ (hf _ _ h)

/-! ### Reads of a run -/

/-- The state with other lofts and channel counters. -/
def withTraffic (s : State) (lofts : SMap Loft) (channels : SMap Channel) : State :=
  { s with mem := { s.mem with lofts := lofts, channels := channels } }

/-- A granule read touches lofts and channel counters only (08 R221, R231). -/
theorem touchGranule_eq (s : State) (q : Option Nat) (look install : Bool) (g : Nat) :
    ∃ lofts channels, touchGranule s q look install g = withTraffic s lofts channels := by
  unfold touchGranule
  split
  · exact ⟨_, _, rfl⟩
  · split
    · exact ⟨_, _, rfl⟩
    · dsimp only
      split
      · split <;> exact ⟨_, _, rfl⟩
      · split <;> exact ⟨_, _, rfl⟩

/-- Memory that reads well has no flipped word in any run. -/
theorem flippedWords_sound {s : State} (h : Safety.memorySound s) (a n : Nat) : flippedWords s a n = [] := by
  unfold flippedWords
  rw [h]
  split <;> rfl

theorem fold_touch_eq (q : Option Nat) (look install : Bool) (l : List Nat) (s : State) :
    ∃ lofts channels, l.foldl (fun s g => if 256 * g < stackTop s then touchGranule s q look install g else s) s
      = withTraffic s lofts channels := by
  induction l generalizing s with
  | nil => exact ⟨s.mem.lofts, s.mem.channels, rfl⟩
  | cons g l ih =>
    simp only [List.foldl_cons]
    split
    · obtain ⟨x, y, h⟩ := ih (touchGranule s q look install g)
      obtain ⟨u, v, h'⟩ := touchGranule_eq s q look install g
      exact ⟨x, y, by rw [h, h']; rfl⟩
    · exact ih s

/-- A read clears counters of channels only (08 R231). -/
theorem clearQueueHigh_eq (s : State) (a n : Nat) :
    ∃ channels, clearQueueHigh s a n = withTraffic s s.mem.lofts channels := by
  unfold clearQueueHigh
  split
  next q off _ =>
    split
    · refine foldl_keeps (fun t : State => ∃ channels, t = withTraffic s s.mem.lofts channels) _ ?_ _ s ⟨s.mem.channels, rfl⟩
      rintro _ k ⟨x, rfl⟩
      exact ⟨_, rfl⟩
    · exact ⟨s.mem.channels, rfl⟩
  next => exact ⟨s.mem.channels, rfl⟩

/-- A read below the register windows clears no counter. -/
theorem clearQueueHigh_below {s : State} {a : Nat} (n : Nat) (h : a < windowBase) : clearQueueHigh s a n = s := by
  have hw : windowBase ≤ quarterWindow 0 := by decide
  unfold clearQueueHigh
  split
  next q off hp =>
    unfold place at hp
    split at hp
    · cases hp
    · split at hp
      · cases hp
      · rw [if_neg (by omega), if_neg (by omega)] at hp
        cases hp
  next => rfl

/-- No word is counted where none is read. -/
@[simp] theorem countWords_nil (s : State) : countWords s [] = s := rfl

/-- Memory that reads well has no flipped word in the line of any fill. -/
theorem fillWords_sound {s : State} (h : Safety.memorySound s) (q : Option Nat) (look install : Bool) (a n : Nat) :
    fillWords s q look install a n = [] := by
  unfold fillWords
  rw [if_pos (by rw [h]; rfl)]

/-- A read of a run of memory that reads well moves the loft's and the channels' counters. -/
theorem readRun_eq {s : State} (h : Safety.memorySound s) (q : Option Nat) (look install : Bool) (a n : Nat) :
    readRun s q look install a n = (clearQueueHigh ((granules a n).foldl (fun s g =>
      if 256 * g < stackTop s then touchGranule s q look install g else s) s) a n, none) := by
  unfold readRun
  simp only [flippedWords_sound h a n, fillWords_sound h q look install a n, List.filter_nil, List.append_nil, countWords_nil,
    List.foldl_nil, List.find?_nil]

/-- A read of a run of memory that reads well finds no bad word, and changes lofts and channel counters only (08 R221, R231; 09
R239). -/
theorem readRun_sound {s : State} (h : Safety.memorySound s) (q : Option Nat) (look install : Bool) (a n : Nat) :
    (readRun s q look install a n).2 = none ∧
    ∃ lofts channels, (readRun s q look install a n).1 = withTraffic s lofts channels := by
  rw [readRun_eq h]
  obtain ⟨x, y, ht⟩ := fold_touch_eq q look install (granules a n) s
  obtain ⟨z, hc⟩ := clearQueueHigh_eq (withTraffic s x y) a n
  exact ⟨rfl, x, z, by rw [ht, hc]; rfl⟩

/-- Granules that lie above stack memory are not touched. -/
theorem fold_touch_above (q : Option Nat) (look install : Bool) (l : List Nat) (s : State) (h : ∀ g ∈ l, stackTop s ≤ 256 * g) :
    l.foldl (fun s g => if 256 * g < stackTop s then touchGranule s q look install g else s) s = s := by
  induction l with
  | nil => rfl
  | cons g l ih =>
    simp only [List.foldl_cons]
    rw [if_neg (Nat.not_lt.mpr (h g (List.mem_cons_self ..)))]
    exact ih fun g' hg => h g' (List.mem_cons_of_mem _ hg)

theorem mem_granules {a n g : Nat} (h : g ∈ granules a n) : a / 256 ≤ g := by
  unfold granules at h
  split at h
  · exact absurd h (List.not_mem_nil)
  · simp only [rangeFrom, List.mem_map] at h
    obtain ⟨k, -, rfl⟩ := h
    omega

/-- A read of scratchpad bytes that read well changes nothing. -/
theorem readRun_pad {s : State} (h : Safety.memorySound s) (q : Option Nat) (look install : Bool) {a : Nat} (n : Nat)
    (ha : stackTop s ≤ a / 256 * 256) (hw : a < windowBase) : readRun s q look install a n = (s, none) := by
  rw [readRun_eq h, fold_touch_above]
  · rw [clearQueueHigh_below n hw]
  · intro g hg
    have := mem_granules hg
    omega

theorem readSlot_sound {s : State} (h : Safety.memorySound s) (hs : stackTop s ≤ scratchBase) {e : Env} (ht : e.tile < 2304)
    (slot : Nat) : readSlot e s slot = s := by
  have ha : stackTop s ≤ padAddr e.tile (slot * 32) / 256 * 256 := by
    refine Nat.le_trans hs ?_
    unfold padAddr scratchBase
    omega
  unfold readSlot
  dsimp only
  split
  next hc => rw [readRun_pad h none false false 32 ha (by unfold padAddr scratchBase windowBase; omega)]
  next => rfl

/-- The reads of a step's slots change nothing in memory that reads well (03 R84). -/
theorem readSlots_sound {s : State} (h : Safety.memorySound s) (hs : stackTop s ≤ scratchBase) {e : Env} (ht : e.tile < 2304)
    (slots : List Nat) : readSlots s e slots = s := by
  unfold readSlots
  induction slots with
  | nil => rfl
  | cons k l ih => rw [List.foldl_cons, readSlot_sound h hs ht]; exact ih

/-- The read of a step's rounding key changes lofts and channel counters only (04 R128). -/
theorem readKey_sound {s : State} (h : Safety.memorySound s) (e : Env) :
    ∃ lofts channels, readKey s e = withTraffic s lofts channels := by
  obtain ⟨h2, x, y, h1⟩ := readRun_sound h none false false (keyAddr e.fd e.tile) 16
  unfold readKey
  split
  · exact ⟨s.mem.lofts, s.mem.channels, rfl⟩
  · split
    next t w heq => rw [heq] at h2; cases h2
    next t heq => rw [heq] at h1; exact ⟨x, y, h1⟩

/-- A byte of stack memory that reads well is the byte listed there (08 R221; 09 R236). -/
theorem seeByte_sound {s : State} (h : Safety.memorySound s) {a : Nat} (ha : a < stackTop s) : seeByte s none a = s.mem.bytes.read a := by
  have hp : place s a = .stack := by unfold place; rw [if_pos ha]
  unfold seeByte
  rw [hp, h]
  rfl

/-- A run written in stack memory that reads well reads as it was written. -/
theorem seeBytes_written {s : State} {b : Bytes} {a : Nat} {bs : List Byte} (h : Safety.memorySound s)
    (hb : s.mem.bytes = b.writeRun a bs) (ha : a + bs.length ≤ stackTop s) : seeBytes s none a bs.length = bs := by
  unfold seeBytes rangeFrom
  apply List.ext_getElem
  · simp
  · intro i h1 h2
    simp only [List.getElem_map, List.getElem_range]
    rw [seeByte_sound h (by omega), hb, Bytes.read_writeRun, if_pos (by omega), Nat.add_sub_cancel_left]
    exact (List.getElem_eq_getD 0).symm

/-! ### Writes of a run -/

/-- A write in a word that reads well writes the bytes of the run that fall in the word, and nothing else. -/
theorem writeInWord_sound {s : State} (h : Safety.memorySound s) (sub : Bool) (a : Nat) (bs : List Byte) (w : Nat) :
    writeInWord s sub a bs w = ({ s with mem := { s.mem with bytes := s.mem.bytes.writeRun (max a (16 * w)) (List.take
      (min (a + bs.length) (16 * w + 16) - max a (16 * w)) (bs.drop (max a (16 * w) - a))) } }, false) := by
  unfold writeInWord
  rw [if_pos]
  rw [h]
  rfl

/-- The state with other lofts, invalidation logs and channel counters. -/
def withBooks (s : State) (lofts : SMap Loft) (logs : SMap InvalLog) (channels : SMap Channel) : State :=
  { s with mem := { s.mem with lofts := lofts, logs := logs, channels := channels } }

/-- A state that differs in lofts, logs and channel counters only. -/
def Booked (s t : State) : Prop := ∃ lofts logs channels, t = withBooks s lofts logs channels

theorem booked_refl (s : State) : Booked s s := ⟨s.mem.lofts, s.mem.logs, s.mem.channels, rfl⟩
theorem booked_trans {s t u : State} (h : Booked s t) (h' : Booked t u) : Booked s u := by
  obtain ⟨x, y, z, rfl⟩ := h
  obtain ⟨x', y', z', rfl⟩ := h'
  exact ⟨x', y', z', rfl⟩
theorem booked_setLoft (s : State) (q : Nat) (l : Loft) : Booked s (setLoft s q l) := ⟨_, s.mem.logs, s.mem.channels, rfl⟩
theorem booked_countWrite (s : State) (g : Nat) : Booked s (countWrite s g) := ⟨s.mem.lofts, s.mem.logs, _, rfl⟩

theorem booked_fold {α : Type} (f : State → α → State) (h : ∀ s x, Booked s (f s x)) (l : List α) (s : State) :
    Booked s (l.foldl f s) := by
  induction l generalizing s with
  | nil => exact booked_refl s
  | cons x l ih => exact booked_trans (h s x) (ih _)

/-- A write of a stack granule moves lofts, logs and channel counters only (08 R222, R223, R231). -/
theorem noteWrite_booked (s : State) (y : By) (g : Nat) : Booked s (noteWrite s y g) := by
  unfold noteWrite
  refine booked_trans (booked_countWrite s g) ?_
  generalize countWrite s g = s
  split
  · dsimp only
    split
    · exact ⟨s.mem.lofts, _, s.mem.channels, rfl⟩
    · exact booked_trans (booked_setLoft s _ _) ⟨_, _, _, rfl⟩
  · exact booked_fold _ (fun s q => booked_setLoft s q _) _ _

theorem fold_note_booked (y : By) (l : List Nat) (s : State) :
    Booked s (l.foldl (fun s g => if 256 * g < stackTop s then noteWrite s y g else s) s) := by
  refine booked_fold _ (fun s g => ?_) l s
  split
  · exact noteWrite_booked s y g
  · exact booked_refl s

/-! ### The canonical form is kept -/

theorem storeWord_wf {s : State} (w d : Nat) (h : s.mem.bytes.wf = true) : (storeWord s w d).mem.bytes.wf = true :=
  Bytes.writeRun_wf _ _ h

theorem poisonWord_wf {s : State} (w d : Nat) (h : s.mem.bytes.wf = true) : (poisonWord s w d).mem.bytes.wf = true :=
  Bytes.writeRun_wf _ _ h

theorem scrubWord_wf {s : State} (w : Nat) (h : s.mem.bytes.wf = true) : (scrubWord s w).mem.bytes.wf = true := by
  unfold scrubWord
  dsimp only
  split
  · exact storeWord_wf _ _ h
  · exact h

/-- Counting words read changes no byte (09 R240, R243). -/
@[simp] theorem countWords_bytes (s : State) (ws : List Nat) : (countWords s ws).mem.bytes = s.mem.bytes := by
  unfold countWords
  refine foldl_keeps (fun t : State => t.mem.bytes = s.mem.bytes) (fun s r => noteRow s r 1) (fun _ _ h => h) _ _ ?_
  refine foldl_keeps (fun t : State => t.mem.bytes = s.mem.bytes) countWord (fun t w h => ?_) ws s rfl
  unfold countWord
  dsimp only
  split
  · exact h
  · split <;> exact h

theorem readRun_wf {s : State} (q : Option Nat) (look install : Bool) (a n : Nat) (h : s.mem.bytes.wf = true) :
    (readRun s q look install a n).1.mem.bytes.wf = true := by
  unfold readRun
  dsimp only
  obtain ⟨c, hc⟩ := clearQueueHigh_eq (List.foldl scrubWord _ _) a n
  rw [hc]
  refine foldl_keeps (fun (s : State) => s.mem.bytes.wf = true) scrubWord (fun _ _ h => scrubWord_wf _ h) _ _ ?_
  refine foldl_keeps (fun (s : State) => s.mem.bytes.wf = true) _ (fun t w h => ?_) _ _ ?_
  · rw [badWordFault_mem]; exact h
  · rw [countWords_bytes]
    obtain ⟨x, y, h'⟩ := fold_touch_eq q look install (granules a n) s
    rw [h']
    exact h

theorem writeInWord_wf {s : State} (sub : Bool) (a : Nat) (bs : List Byte) (w : Nat) (h : s.mem.bytes.wf = true) :
    (writeInWord s sub a bs w).1.mem.bytes.wf = true := by
  unfold writeInWord
  dsimp only
  split
  · exact Bytes.writeRun_wf _ _ h
  · split
    · exact storeWord_wf _ _ h
    · split
      · exact poisonWord_wf _ _ h
      · exact Bytes.writeRun_wf _ _ (storeWord_wf _ _ h)

theorem writeRun_wf {s : State} (y : By) (a : Nat) (bs : List Byte) (sub : Bool) (h : s.mem.bytes.wf = true) :
    (writeRun s y a bs sub).1.mem.bytes.wf = true := by
  unfold writeRun
  split
  · exact h
  · dsimp only
    have key := foldl_keeps (fun (p : State × Bool) => p.1.mem.bytes.wf = true)
      (fun p w => ((writeInWord p.1 sub a bs w).1, p.2 || (writeInWord p.1 sub a bs w).2))
      (fun p w hp => writeInWord_wf sub a bs w hp) (rangeFrom (a / 16) ((a + bs.length - 1) / 16 + 1 - a / 16))
      (countWords s (partialWords s sub a bs.length), false) (by rw [countWords_bytes]; exact h)
    revert key
    generalize List.foldl _ (countWords s _, false) _ = p
    intro key
    obtain ⟨x, z, c, h'⟩ := fold_note_booked y (granules a bs.length) p.1
    rw [h']
    exact key

end Sys2Proof.Machine
end

