-- ==== Sys2Proof/Laws/Canonical.lean ====
section
/-! SUPPORT. The operations that write memory keep its canonical form (01 R27). -/
namespace Sys2Proof.Machine

/-! ### Steps' accesses -/

theorem sweepBlock_wf (who : Asker) (q : Nat) (e : Scan) (z : Sweeping) (i : Nat) (h : z.s.mem.bytes.wf = true) :
    (sweepBlock who q e z i).s.mem.bytes.wf = true := by
  unfold sweepBlock
  split
  · exact h
  · have hr := readRun_wf (some q) false false (e.start + i * e.stride) (16 * (e.block16m1 + 1)) h
    dsimp only
    split
    · rw [badWordFault_mem]; exact hr
    · exact hr

theorem sweep_wf {s : State} (who : Asker) (q e : Nat) (h : s.mem.bytes.wf = true) :
    (sweep s who q e).1.mem.bytes.wf = true := by
  unfold sweep
  dsimp only
  split
  · rw [setScan_mem, setCvu_mem]
    split
    · rw [logFault_mem]; exact h
    · exact h
  · exact foldl_keeps (fun z : Sweeping => z.s.mem.bytes.wf = true) _ (fun z i hz => sweepBlock_wf who q _ z i hz) _ _ h

theorem scanWindowWrite_wf {s : State} (who : Asker) (q o : Nat) (bs : List Byte) (e : Nat) (h : s.mem.bytes.wf = true) :
    (scanWindowWrite who q o bs s e).mem.bytes.wf = true := by
  unfold scanWindowWrite
  generalize clipBlock o bs (_ + 0x100 * e) = part
  dsimp only
  split
  · exact h
  · split
    · exact sweep_wf _ _ _ (by rw [setScan_mem]; exact h)
    · rw [setScan_mem]; exact h

theorem cvuWindowWrite_wf {s : State} (q o : Nat) (bs : List Byte) (u : Nat) (h : s.mem.bytes.wf = true) :
    (cvuWindowWrite q o bs s u).mem.bytes.wf = true := by
  unfold cvuWindowWrite
  generalize clipBlock o bs (_ + 0x100 * u) = part
  dsimp only
  split
  · exact h
  · rw [setCvu_mem]; exact h

theorem writeEngines_wf {s : State} (who : Asker) (q off : Nat) (bs : List Byte) (h : s.mem.bytes.wf = true) :
    (writeEngines s who q off bs).1.mem.bytes.wf = true := by
  unfold writeEngines
  dsimp only
  split
  · exact h
  · refine foldl_keeps (fun s : State => s.mem.bytes.wf = true) _ (fun s e hs => scanWindowWrite_wf _ _ _ _ e hs) _ _ ?_
    exact foldl_keeps (fun s : State => s.mem.bytes.wf = true) _ (fun s u hs => cvuWindowWrite_wf _ _ _ u hs) _ _ h

theorem readAcc_wf (e : Env) (r : Running) (a n : Nat) (look install : Bool) (h : r.s.mem.bytes.wf = true) :
    (readAcc e r a n look install).s.mem.bytes.wf = true := by
  have hr := readRun_wf (some e.quarter) look install a n h
  unfold readAcc
  split
  next t w heq => rw [heq] at hr; dsimp only; rw [badWordFault_mem]; exact hr
  next t heq =>
    rw [heq] at hr
    split
    · exact hr
    · dsimp only [hopFault]; rw [logFault_mem]; exact hr

theorem storeAcc_wf (e : Env) (r : Running) (a : Nat) (bs : List Byte) (sub : Bool) (h : r.s.mem.bytes.wf = true) :
    (storeAcc e r a bs sub).s.mem.bytes.wf = true := by
  have hw := writeRun_wf (.step e.quarter e.field) a bs sub h
  unfold storeAcc
  dsimp only
  refine foldl_keeps (fun s : State => s.mem.bytes.wf = true) _ (fun _ _ hs => poisonWord_wf _ _ hs) _ _ ?_
  split
  · rw [logFault_mem]; exact hw
  · exact hw

theorem placeAcc_wf (e : Env) (r : Running) (a : Nat) (bs : List Byte) (sub : Bool) (h : r.s.mem.bytes.wf = true) :
    (placeAcc e r a bs sub).s.mem.bytes.wf = true := by
  unfold placeAcc
  split
  · exact storeAcc_wf e r a bs sub h
  · exact storeAcc_wf e r a bs sub h
  · exact h
  · exact writeEngines_wf _ _ _ _ h
  · exact h

theorem runAcc_wf (e : Env) (r : Running) (acc : Acc) (h : r.s.mem.bytes.wf = true) : (runAcc e r acc).s.mem.bytes.wf = true := by
  unfold runAcc
  split
  · exact h
  · split
    · exact readAcc_wf e r _ _ _ _ h
    · exact placeAcc_wf e r _ _ _ h

/-- A step's accesses keep memory's canonical form. -/
theorem runAccs_wf {s : State} (e : Env) (accs : List Acc) (h : s.mem.bytes.wf = true) :
    (runAccs s e accs).1.mem.bytes.wf = true := by
  have key := foldl_keeps (fun r : Running => r.s.mem.bytes.wf = true) (runAcc e) (fun r a hr => runAcc_wf e r a hr) accs
    ⟨s, false, .ok, 0⟩ h
  unfold runAccs closeAccs
  dsimp only
  split <;> exact key

/-! ### Firmware's reads -/

/-- Firmware's read of stack memory that reads well answers the bytes (02 R61; 08 R233; 09 R239). -/
theorem firmwareRead_sound {s : State} (h : Safety.memorySound s) {a n : Nat} (ha : a + n ≤ stackTop s) (hb : runBusy s a n = false) :
    firmwareRead s a n = ((readRun s none false false a n).1, seeBytes s none a n, .ok) := by
  have h2 := (readRun_sound h none false false a n).1
  unfold firmwareRead
  rw [if_neg (Nat.not_lt.mpr ha), hb, if_neg Bool.false_ne_true]
  split
  next t w heq => rw [heq] at h2; cases h2
  next t heq => rw [heq]

/-! ### Boot, images, resets and messages -/

/-- Entries of a list left as they are, in another era. -/
theorem Bytes.era_wf {b : Bytes} (n : Nat) (h : b.wf = true) : ({ b with era := n } : Bytes).wf = true := h

theorem dropOverwritten_wf {s : State} (h : s.mem.bytes.wf = true) : (dropOverwritten s).mem.bytes.wf = true := h

theorem forgetStacks_wf {s : State} (h : s.mem.bytes.wf = true) : (forgetStacks s).mem.bytes.wf = true :=
  Bytes.era_wf _ (Bytes.filter_wf _ h)

theorem retainStacks_wf {s : State} (h : s.mem.bytes.wf = true) : (retainStacks s).mem.bytes.wf = true :=
  Bytes.era_wf _ (Bytes.filter_wf _ h)

theorem restoreOne_wf {s : State} (r : Retained) (h : s.mem.bytes.wf = true) : (restoreOne s r).mem.bytes.wf = true :=
  foldl_keeps (fun b : Bytes => b.wf = true) _ (fun _ _ hb => Bytes.write_wf _ _ hb) _ _ h

theorem restoreStacks_wf {s : State} (h : s.mem.bytes.wf = true) : (restoreStacks s).mem.bytes.wf = true :=
  foldl_keeps (fun s : State => s.mem.bytes.wf = true) restoreOne (fun _ r hs => restoreOne_wf r hs) _ _ h

theorem powerClear_wf (s : State) : (powerClear s).mem.bytes.wf = true := rfl

theorem movePlacement_wf {old s : State} (h : s.mem.bytes.wf = true) : (movePlacement old s).mem.bytes.wf = true := by
  unfold movePlacement
  dsimp only
  split
  · exact h
  · exact Bytes.era_wf _ (Bytes.filter_wf _ h)

theorem zeroBank_wf {s : State} (t b : Nat) (h : s.mem.bytes.wf = true) : (zeroBank s t b).mem.bytes.wf = true :=
  Bytes.zeroBank_wf _ h

theorem loseStack_wf {s : State} (a b : Nat) (h : s.mem.bytes.wf = true) : (loseStack s a b).mem.bytes.wf = true :=
  Bytes.era_wf _ (Bytes.drop_wf _ _ h)

/-- Entries below the scratchpads stand whatever banks are zeroed. -/
theorem zeroPads_wf {s : State} (h : s.mem.bytes.wf = true) : (zeroPads s).mem.bytes.wf = true := by
  rw [Bytes.wf_iff] at h ⊢
  refine ⟨h.1.filter _, fun c hc => ?_⟩
  have hlt : c.1 < scratchBase := by simpa using (List.mem_filter.mp hc).2
  unfold Bytes.unlisted
  rw [if_neg fun hh => absurd hh.1 (Nat.not_le.mpr hlt)]
  exact nofun

/-- Fewer zeroed banks give fewer addresses a value. -/
theorem Bytes.unlisted_sub {b b' : Bytes} (h : ∀ x ∈ b'.zeroed, x ∈ b.zeroed) (a : Nat) :
    b'.unlisted a = none ∨ b'.unlisted a = b.unlisted a := by
  unfold Bytes.unlisted
  by_cases hz : scratchBase ≤ a ∧ b'.zeroed.contains ((a - scratchBase) / 0x20000) = true
  · refine .inr ?_
    rw [if_pos hz, if_pos ⟨hz.1, List.contains_iff_mem.mpr (h _ (List.contains_iff_mem.mp hz.2))⟩]
  · exact .inl (if_neg hz)

theorem loseTiles_wf {s : State} (lo hi : Nat) (h : s.mem.bytes.wf = true) : (loseTiles s lo hi).mem.bytes.wf = true := by
  rw [Bytes.wf_iff] at h ⊢
  refine ⟨h.1.filter _, fun c hc => ?_⟩
  have hn := h.2 c (List.mem_filter.mp hc).1
  obtain hu | hu := Bytes.unlisted_sub (b := s.mem.bytes) (b' := (loseTiles s lo hi).mem.bytes)
    (fun x hx => (List.mem_filter.mp hx).1) c.1
  · rw [hu]; exact nofun
  · rw [hu]; exact hn

end Sys2Proof.Machine
end

