-- ==== Sys2Proof/Laws/Steps.lean ====
section
/-! SUPPORT. The shared operations of step rows: what a step finds at issue, when a row's step issues, what the end of a step
leaves (03 R71, R73, R76, R77, R80, R81). -/
namespace Sys2Proof.Machine
variable {s : State} {t c : Nat} {st : CtxState} {e : Env}

/-- What a step finds at issue: its context in the state asked, its tile running, its step written by its field (03 R71, R73,
R449). -/
theorem envAt_eq (h : envAt s t c st = some e) :
    e.tile = t ∧ e.ctx = c ∧ (ctxOf s t c).state = st ∧ tileRuns s t = true ∧ e.field = (ctxOf s t c).owner
      ∧ e.item = (ctxOf s t c).item ∧ fieldOf s e.field = some e.fd ∧ stepEntry s t (ctxOf s t c).step = some ⟨e.word, e.field⟩ := by
  simp only [envAt] at h
  split at h
  next h1 =>
    split at h
    next n fd h2 h3 =>
      split at h
      next h4 =>
        cases h
        refine ⟨rfl, rfl, h1.1, h1.2, rfl, rfl, h3, ?_⟩
        rw [h2, ← h4]
      next => cases h
    next => cases h
  next => cases h

/-- A row whose step stands at issue: the step issues and acts. -/
theorem runStep_eq {cls : Nat} {pick : Nat → Bool} (act : State → Env → StepEnd) (h : envAt s t c .ready = some e)
    (hc : stepClass e.word = cls) (hp : pick (stepOp e.word) = true) :
    runStep s t c cls pick act = endStep t c e.word (act (issued s t c) e) := by
  unfold runStep
  simp [h, hc, hp]

/-- A row whose step does not stand at issue does not occur (log 1). -/
theorem runStep_idle {cls : Nat} {pick : Nat → Bool} (act : State → Env → StepEnd)
    (h : ∀ e, envAt s t c .ready = some e → ¬(stepClass e.word = cls ∧ pick (stepOp e.word) = true)) :
    runStep s t c cls pick act = s := by
  unfold runStep
  split
  next e he => rw [if_neg (h e he)]
  next => rfl

/-- Everything that a step row can do. -/
theorem runStep_cases (s : State) (t c cls : Nat) (pick : Nat → Bool) (act : State → Env → StepEnd) :
    runStep s t c cls pick act = s ∨
    ∃ e, envAt s t c .ready = some e ∧ stepClass e.word = cls ∧ pick (stepOp e.word) = true ∧
      runStep s t c cls pick act = endStep t c e.word (act (issued s t c) e) := by
  unfold runStep
  split
  next e he =>
    split
    next h => exact .inr ⟨e, he, h.1, h.2, rfl⟩
    next => exact .inl rfl
  next => exact .inl rfl

/-! ### Flow -/

/-- Flow writes a context, and makes a record where it meets an index that its field did not write (03 R449). -/
theorem goTo_cases (s : State) (t c : Nat) (x : Ctx) (n : Nat) :
    goTo s t c x n = setCtx s t c { x with step := n, state := .ready, waiting := none } ∨
    goTo s t c x n = goTo.halted s t c x n := by
  unfold goTo
  split
  · split
    · exact .inl rfl
    · exact .inr rfl
  · exact .inr rfl

/-- Flow to an index that the context's field wrote: the context is ready there. -/
theorem goTo_written {x : Ctx} {n : Nat} {w : BitVec 128} (h : stepEntry s t n = some ⟨w, x.owner⟩) :
    goTo s t c x n = setCtx s t c { x with step := n, state := .ready, waiting := none } := by
  unfold goTo
  rw [h]
  exact if_pos rfl

/-- Flow leaves everything but the context and fault records. -/
@[simp] theorem goTo_mem (x : Ctx) (n : Nat) : (goTo s t c x n).mem = s.mem := by
  obtain h | h := goTo_cases s t c x n <;> rw [h]
  · rfl
  · simp [goTo.halted, unwrittenFault, dropCheck]
@[simp] theorem goTo_fields (x : Ctx) (n : Nat) : (goTo s t c x n).fields = s.fields := by
  obtain h | h := goTo_cases s t c x n <;> rw [h]
  · rfl
  · simp [goTo.halted, unwrittenFault, dropCheck]
@[simp] theorem goTo_sync (x : Ctx) (n : Nat) : (goTo s t c x n).sync = s.sync := by
  obtain h | h := goTo_cases s t c x n <;> rw [h]
  · rfl
  · simp [goTo.halted, unwrittenFault, dropCheck]
@[simp] theorem goTo_units (x : Ctx) (n : Nat) : (goTo s t c x n).units = s.units := by
  obtain h | h := goTo_cases s t c x n <;> rw [h]
  · rfl
  · simp [goTo.halted, unwrittenFault, dropCheck]
@[simp] theorem goTo_ports (x : Ctx) (n : Nat) : (goTo s t c x n).ports = s.ports := by
  obtain h | h := goTo_cases s t c x n <;> rw [h]
  · rfl
  · simp [goTo.halted, unwrittenFault, dropCheck]
@[simp] theorem goTo_pending (x : Ctx) (n : Nat) : (goTo s t c x n).pending = s.pending := by
  obtain h | h := goTo_cases s t c x n <;> rw [h]
  · rfl
  · simp [goTo.halted, unwrittenFault, dropCheck]

/-! ### Ends -/

/-- The state that an end of a step goes on from. -/
def StepEnd.state : StepEnd → State
  | .done s _ _ => s
  | .jump s _ _ _ => s
  | .sleep s _ => s
  | .block s => s
  | .halt s => s
  | .flight s => s

/-- The end of a step leaves memory as the step left it. -/
@[simp] theorem endStep_mem (w : BitVec 128) (r : StepEnd) : (endStep t c w r).mem = r.state.mem := by
  cases r <;> simp [endStep, StepEnd.state]

/-- A step row keeps memory's canonical form when its act does. -/
theorem runStep_wf {cls : Nat} {pick : Nat → Bool} {act : State → Env → StepEnd} (h : s.mem.bytes.wf = true)
    (ha : ∀ e, (act (issued s t c) e).state.mem.bytes.wf = true) : (runStep s t c cls pick act).mem.bytes.wf = true := by
  obtain hr | ⟨e, -, -, -, hr⟩ := runStep_cases s t c cls pick act <;> rw [hr]
  · exact h
  · rw [endStep_mem]; exact ha e

end Sys2Proof.Machine
end

