-- ==== Sys2Proof/Tests/Slice0.lean ====
section
/-! SUPPORT. Tests: an ill-formed command for each check of WellFormed; for each statement with hypotheses, a state and operands
that meet them; and small checks of single commands against the specification's worked values. -/
namespace Sys2Proof.Tests
set_option Elab.async false
open Sys2Proof.Machine Sys2Proof.Safety

/-! ### Builders -/

/-- A step word of its fields: class, operation, unit, COUNT_HI, COUNT_LO, A, B, D, and bits 15 to 0 (03 R74). -/
def stepW (cls op unit hi lo a b d next : Nat) : BitVec 128 :=
  BitVec.ofNat 128 (cls * 2 ^ 122 + op * 2 ^ 114 + unit * 2 ^ 110 + hi * 2 ^ 96 + lo * 2 ^ 64 + a * 2 ^ 48 + b * 2 ^ 32 + d * 2 ^ 16 + next)

/-- Field 0: plot 0, contexts 0 and 1, banks 0 and 1. -/
def fd0 : Field :=
  { crop := false, host := 0xFF, plots := 1, contexts := 3, banks := 3, div := 0, repeatDenom := 0, base := 0, size := 0
    near := none, mowMib := 0, gatherMib := 0, journalChunks := 0, recipes := [], initExp := 0, growth := 0, hasChain := true
    shapes := [], entries := [], templates := [], groups := [], syncs := [], imageId := 7, scanned := false }

/-- A package in full service whose quarter 0 runs field 0: tile 0's context 0 is ready at index 0, which holds a step word, as
index 1 does a NOP; the field's banks on tile 0 are zero. -/
def world (w : BitVec 128) : State :=
  { fields := { fields := [(0, some fd0)], imageIds := [(0, 7)] }
    power := { quarters := [(0, { inService := true })], pwrgood := true }
    mgmt := { capWord := 0x7F7F0F0200, service := .full }
    mem := { bytes := { zeroed := [0, 1] } }
    tiles := { ctxs := [(0, { owner := 0, state := .ready })], table := [(0, some ⟨w, 0⟩), (1, some ⟨0, 0⟩)] } }

/-- What the step of tile 0's context 0 finds at issue in `world`. -/
def env (w : BitVec 128) : Env := ⟨0, 0, w, 0, fd0, none, [], []⟩

/-- Bytes put in memory above every byte listed; the zeros of a zeroed bank are not listed. -/
def put (s : State) (a : Nat) (bs : List Byte) : State :=
  let cells := (List.zip (rangeFrom a bs.length) bs).filter fun c => s.mem.bytes.unlisted c.1 != some c.2
  { s with mem := { s.mem with bytes := { s.mem.bytes with cells := s.mem.bytes.cells ++ cells } } }
/-- A slot of tile 0. -/
def slot (s : State) (n : Nat) (x : Nat) : State := put s (padAddr 0 (n * 32)) (leBytes 32 x)
/-- A descriptor's word: base, format, layout, rank, extents, row stride, scale slot, kind (03 R85). -/
def desc (base fmt layout rank e0 e1 s1 sc kind : Nat) : Nat :=
  base + fmt * 2 ^ 42 + layout * 2 ^ 48 + (rank - 1) * 2 ^ 50 + e0 * 2 ^ 52 + e1 * 2 ^ 72 + s1 * 2 ^ 132 + sc * 2 ^ 204 + kind * 2 ^ 220
/-- The state a command leaves. -/
def after (i : Instr) (s : State) : State :=
  match exec i s with
  | .next t => t
  | _ => State.reset

/-! ### Well-formed commands -/

theorem test_wf_context : (Instr.nop 2303 15).wf = true ∧ (Instr.nop 2304 0).wf = false ∧ (Instr.nop 0 16).wf = false := by decide
theorem test_wf_step_index : (Instr.stepTableRefetch 0 4095).wf = true ∧ (Instr.stepTableRefetch 0 4096).wf = false := by decide
theorem test_wf_wire : (Instr.wakePulse 3 63 2303).wf = true ∧ (Instr.wakePulse 4 0 0).wf = false ∧ (Instr.wakePulse 0 64 0).wf = false ∧
    (Instr.wakePulse 0 0 2304).wf = false := by decide
theorem test_wf_region : (Instr.chaffDensityStep 0 1 none).wf = true ∧ (Instr.chaffDensityStep 0 2 none).wf = false := by decide
theorem test_wf_loft : (Instr.loftFillReturn 3 0 []).wf = true ∧ (Instr.loftFillReturn 4 0 []).wf = false ∧
    (Instr.loftInvalidation 4 (.drop 0)).wf = false := by decide
theorem test_wf_sweep_go : (Instr.sweepGo (.tile 0 0) 3 1 0).wf = true ∧ (Instr.sweepGo (.tile 0 0) 0 2 0).wf = false ∧
    (Instr.sweepGo (.firmware 10) 0 0 0).wf = false ∧ (Instr.sweepGo (.tile 0 16) 0 0 0).wf = false := by decide
theorem test_wf_group : (Instr.collectiveTimeout 31).wf = true ∧ (Instr.collectiveTimeout 32).wf = false := by decide
theorem test_wf_statistics : (Instr.statisticsUpdate ⟨0, 0, 1, 0, 0, 0, 0, 0, 0, 0, 0⟩).wf = true ∧
    (Instr.statisticsUpdate ⟨2 ^ 42, 0, 1, 0, 0, 0, 0, 0, 0, 0, 0⟩).wf = false := by decide
theorem test_wf_quarter : (Instr.repeatSummary 3).wf = true ∧ (Instr.repeatSummary 4).wf = false ∧ (Instr.thermalTrip 4 0 0).wf = false ∧
    (Instr.thermalTrip 0 36 0).wf = false ∧ (Instr.junctionLimit 0 0x4F 0).wf = true := by
  decide
theorem test_wf_item : (Instr.provingItemRun 0 4095 []).wf = true ∧ (Instr.provingItemRun 0 4096 []).wf = false := by decide
theorem test_wf_stack : (Instr.stackTemperatureRead 15 0).wf = true ∧ (Instr.stackTemperatureRead 16 0).wf = false := by decide
theorem test_wf_row : (Instr.patrolRead 511 10485759 []).wf = true ∧ (Instr.patrolRead 512 0 []).wf = false ∧
    (Instr.rowRepair 0 10485760 0 false).wf = false := by decide
theorem test_wf_signal_write : (Instr.firmwareSignalWrite 9 3 4095 0).wf = true ∧ (Instr.firmwareSignalWrite 10 0 0 0).wf = false ∧
    (Instr.firmwareSignalWrite 0 0 4096 0).wf = false := by decide
theorem test_wf_register_write : (Instr.registerWrite (.firmware 0) 0 []).wf = true ∧
    (Instr.registerWrite (.firmware 0) (2 ^ 42) []).wf = false := by decide
theorem test_wf_rdma : (Instr.rdmaWrite ⟨2 ^ 24 - 1, 0, 0, 0, false, 1, 0⟩ []).wf = true ∧ (Instr.rdmaWrite ⟨0, 2 ^ 24, 0, 0, false, 1, 0⟩ []).wf = false ∧
    (Instr.cnpReceived (2 ^ 24)).wf = false := by decide
theorem test_wf_priority : (Instr.pfcFrame 7 true).wf = true ∧ (Instr.pfcFrame 8 true).wf = false := by decide
theorem test_wf_flit : (Instr.idleFlit 5 ⟨0, 31, 4095, 4095, 31, 63, 2 ^ 42 - 1, 256, 255, true, []⟩).wf = true ∧
    (Instr.idleFlit 6 ⟨0, 0, 0, 0, 0, 0, 0, 0, 0, true, []⟩).wf = false ∧ (Instr.idleFlit 0 ⟨16, 0, 0, 0, 0, 0, 0, 0, 0, true, []⟩).wf = false ∧
    (Instr.idleFlit 0 ⟨0, 32, 0, 0, 0, 0, 0, 0, 0, true, []⟩).wf = false ∧ (Instr.idleFlit 0 ⟨0, 0, 4096, 0, 0, 0, 0, 0, 0, true, []⟩).wf = false ∧
    (Instr.idleFlit 0 ⟨0, 0, 0, 0, 0, 64, 0, 0, 0, true, []⟩).wf = false ∧ (Instr.idleFlit 0 ⟨0, 0, 0, 0, 0, 0, 0, 257, 0, true, []⟩).wf = false := by
  decide
theorem test_wf_module : (Instr.cmisPoll 5 9 none 0 0).wf = true ∧ (Instr.cmisPoll 5 10 none 0 0).wf = false := by decide
theorem test_wf_link : (Instr.ringLinkRetrain 3 0 0).wf = true ∧ (Instr.ringLinkRetrain 4 0 0).wf = false := by decide
theorem test_wf_reading : (Instr.quarterLoopIteration 3 ⟨[none, none, none, none], [0, 0, 0, 0], [[], [], [], []], 0, 0, true⟩).wf = true ∧
    (Instr.quarterLoopIteration 0 ⟨[none], [0, 0, 0, 0], [[], [], [], []], 0, 0, true⟩).wf = false := by decide
theorem test_wf_plot : (Instr.droop 143).wf = true ∧ (Instr.droop 144).wf = false := by decide
theorem test_wf_rail : (Instr.supplyWarning 3 1).wf = true ∧ (Instr.supplyWarning 0 2).wf = false ∧ (Instr.supplyReset 0 [4]).wf = false ∧
    (Instr.railOutOfRange (.low 4 0)).wf = false := by decide
theorem test_wf_processor : (Instr.watchdogExpiry 9).wf = true ∧ (Instr.watchdogExpiry 10).wf = false := by decide
theorem test_wf_mail : (Instr.setCap ⟨.mctp 8, {}, 1, 1, 0, zeros 2⟩).wf = true ∧ (Instr.setCap ⟨.mctp 8, {}, 1, 256, 0, zeros 2⟩).wf = false := by decide
theorem test_wf_sample : (Instr.weighbridgeSample [0, 0, 0, 0, 0, 0, 0, 0]).wf = true ∧ (Instr.weighbridgeSample []).wf = false := by decide
theorem test_wf_die : (Instr.bypass 7).wf = true ∧ (Instr.bypass 8).wf = false := by decide

/-- No row of the table has bits. -/
theorem test_no_word_decodes : decodeTableWord 16 0 = none := rfl

/-! ### Flow, CTRL and PRED -/

/-- NOP, SETLOOP 1 to 5, HALT and a refetch meet the hypotheses. -/
theorem test_ctrl_steps_hypotheses :
    (issues (world 1) 0 0 (env 1) 0x00 0 ∧ operandsZero (1 : BitVec 128) = true) ∧
    (let w := stepW 0 1 0 3 5 0 0 0 1
     issues (world w) 0 0 (env w) 0x00 1 ∧ bits (stepHi w) 13 2 = 0 ∧ bits w.toNat 63 16 = 0 ∧ stepUnit w = 0 ∧ stepLo w ≠ 0) ∧
    (let w := stepW 0 3 0 0 0 0 0 0 0
     issues (world w) 0 0 (env w) 0x00 3 ∧ operandsZero w = true) ∧ 4095 < 4096 := by decide +kernel

/-- A completed step whose NEXT is written, one whose NEXT is not, and a loop end at its last pass. -/
theorem test_flow_hypotheses :
    let u := world (stepW 0 0 0 0 0 0 0 0 1)
    let x := finishCtx (ctxOf u 0 0) .ok []
    (∃ n, stepEntry u 0 1 = some n ∧ n.field = x.owner) ∧ (¬ ∃ n, stepEntry u 0 2 = some n ∧ n.field = x.owner) ∧
    (let w := stepW 0 0 0 0 0 0 0 0 0x8000
     stepLoopEnd w = true ∧ (if SMap.get 0 x.loopCur (stepLoopNo w) = 0 then 1 else (SMap.get 0 x.loopCur (stepLoopNo w)).toNat) - 1 = 0) ∧
    (let y := { x with loopCur := [(0, 5)] }
     (if SMap.get 0 y.loopCur 0 = 0 then 1 else (SMap.get 0 y.loopCur 0).toNat) - 1 = 4) := by
  refine ⟨⟨⟨0, 0⟩, by decide, by decide⟩, ?_, by decide, by decide⟩
  rintro ⟨n, h, -⟩
  rw [show stepEntry (world (stepW 0 0 0 0 0 0 0 0 1)) 0 2 = none by decide] at h
  exact nomatch h

/-- PRED on flag 1 clear, to 1, and on its being set. -/
theorem test_pred_hypotheses :
    ∀ op ∈ [1, 0x81], let w := stepW 1 op 0 0 1 0 0 0 0
      envAt (world w) 0 0 .ready = some (env w) ∧ stepClass w = 0x01 ∧ bits (stepOp w) 6 4 = 0 ∧ stepLo w < 4096 ∧ stepHi w = 0 ∧
      stepUnit w = 0 ∧ bits w.toNat 63 16 = 0 ∧ stepEntry (world w) 0 0 = some ⟨w, 0⟩ ∧ stepEntry (world w) 0 1 = some ⟨0, 0⟩ := by
  decide +kernel

/-- A context that holds an item. -/
def holding (i : BitVec 512) (flags : BitVec 16) : State :=
  let s := world (stepW 0 2 0 0 0 0 0 0 0)
  { s with
    tiles := { s.tiles with ctxs := [(0, { owner := 0, state := .ready, item := some i, ret := 1, flags := flags })] }
    sync := { attrs := [(4, ⟨0, 9⟩)] } }

/-- ITEM_END of an item without DONE_EN, of one with it, and of one that ends with ERR. -/
theorem test_item_end_hypotheses :
    ∀ p ∈ [((2 ^ 15 : Nat), (0 : Nat)), (2 ^ 15 + 2 ^ 35 + 4 * 2 ^ 36, 0), (2 ^ 15, 1)],
      let i := BitVec.ofNat 512 p.1
      let s := holding i (BitVec.ofNat 16 p.2)
      let e : Env := { env (stepW 0 2 0 0 0 0 0 0 0) with item := some i }
      issues s 0 0 e 0x00 2 ∧ bits e.word.toNat 113 16 = 0 ∧ (ctxOf s 0 0).check = none ∧ itemCut s e = false ∧
      quarterHeld s (itemDoneQuarter i) = false ∧
      (itemDoneEn i = true → (attrOf s (itemDoneQuarter i) (itemDoneWord i)).field = e.field ∧ e.field ≠ 0xFF) := by
  decide +kernel

/-- The item with DONE_EN adds to its word and pulses its wire (03 R95). -/
theorem test_item_end_signals :
    let t := after (.itemEnd 0 0) (holding (BitVec.ofNat 512 (2 ^ 15 + 2 ^ 35 + 4 * 2 ^ 36)) 0)
    signalOf t 0 4 = 1 ∧ t.sync.sent = [(9, 1)] ∧ (ctxOf t 0 0).step = 1 ∧ (ctxOf t 0 0).item = none := by decide +kernel

/-- A blocked context: its FENCE waits for a split ring, or can run. -/
def blockedOn (w : BitVec 128) : State :=
  let s := world w
  { s with tiles := { s.tiles with ctxs := [(0, { owner := 0, state := .blocked })] } }

theorem test_unblock_hypotheses :
    let w := stepW 6 2 0 0 0 0 0 0 1
    envAt (blockedOn w) 0 0 .blocked = some (env w) ∧ (blockedAct (stepClass w) (stepOp w)).isSome = true := by decide +kernel

/-- SETLOOP sets both registers; the loop end counts down and reloads at the last pass (03 R77, R78). -/
theorem test_setloop_counts :
    let s := after (.setloop 0 0) (world (stepW 0 1 0 2 3 0 0 0 1))
    (ctxOf s 0 0).loopStart = [(2, 3)] ∧ (ctxOf s 0 0).loopCur = [(2, 3)] := by decide +kernel

theorem test_loop_end_flows :
    let w := stepW 0 0 0 0 0 0 0 0 (0x8000 + 2 * 0x1000 + 1)
    let s := fun (n : BitVec 32) => { world w with
      tiles := { (world w).tiles with ctxs := [(0, { owner := 0, state := .ready, loopStart := [(2, 3)], loopCur := [(2, n)] })] } }
    let t := ctxOf (after (.nop 0 0) (s 2)) 0 0
    let u := ctxOf (after (.nop 0 0) (s 1)) 0 0
    t.loopCur = [(2, 1)] ∧ t.step = 1 ∧ u.loopCur = [(2, 3)] ∧ u.step = 1 := by decide +kernel

/-- Flow to an unwritten index halts the context with E_RANGE and a record of class 0x0B (03 R449). -/
theorem test_unwritten_index_halts :
    let t := after (.nop 0 0) (world (stepW 0 0 0 0 0 0 0 0 9))
    (ctxOf t 0 0).state = .halted ∧ (ctxOf t 0 0).lastStatus = .range ∧ t.mgmt.buffer.map Fault16.cls = [0x0B] := by decide +kernel

/-- SETLOOP of zero passes is refused with E_RANGE (03 R78). -/
theorem test_setloop_zero :
    (ctxOf (after (.setloop 0 0) (world (stepW 0 1 0 2 0 0 0 0 1))) 0 0).lastStatus = .range := by decide +kernel

/-! ### Synchronisation -/

/-- Unit 3 of quarter 0 and word 4 belong to field 0. -/
def synced (w : BitVec 128) (b : Barrier) : State :=
  { world w with sync := { barriers := [(3, b)], attrs := [(4, ⟨0, 9⟩)] } }

def unit3 (count arrived early bits : Nat) : Barrier :=
  { field := 0, allocated := true, wake := 9, count := count, arrived := arrived, early := early, bits := if bits = 0 then [] else [(0, bits)] }

/-- ARRIVE: a first arrival, one that fills the unit, an early one and a third one. -/
theorem test_arrive_hypotheses :
    let w := stepW 2 1 0 3 0 0 0 0 1
    ∀ b ∈ [unit3 0 0 0 0, unit3 2 0 0 0, unit3 2 1 1 4, unit3 3 1 0 5, unit3 3 1 1 7],
      issues (synced w b) 0 0 (env w) 0x02 1 ∧ syncStatus (issued (synced w b) 0 0) (env w) true false false = .ok ∧
      syncCut (issued (synced w b) 0 0) (env w) = false ∧ (barrierOf (synced w b) (syncQuarter w) (syncUnit w)).bitsOf 0 0 < 8 ∧
      barrierOf (synced w b) (syncQuarter w) (syncUnit w) = b := by decide +kernel

/-- The clauses' own premises meet at those units. -/
theorem test_arrive_clauses :
    (unit3 2 0 0 0).bitsOf 0 0 % 2 = 0 ∧ (unit3 2 0 0 0).arrived + 1 < 2 ∧
    (unit3 2 1 1 4).bitsOf 0 0 % 2 = 0 ∧ 2 ≤ (unit3 2 1 1 4).arrived + 1 ∧ (unit3 2 1 1 4).early < 2 ∧
    (unit3 3 1 0 5).bitsOf 0 0 % 4 = 1 ∧ (unit3 3 1 0 5).arrived < 3 ∧ (unit3 3 1 1 7).bitsOf 0 0 % 4 = 3 := by decide +kernel

/-- WAIT_SIGNAL of a threshold reached and of one ahead; WAIT and ARRIVE_WAIT of a context not waited for, arrived and early. -/
theorem test_sync_waits_hypotheses :
    (∀ n ∈ [0, 1], let w := stepW 2 6 0 (9 * 64) 1 4 0 n 1
      issues (synced w (unit3 2 0 0 0)) 0 0 (env w) 0x02 6 ∧
      syncStatus (issued (synced w (unit3 2 0 0 0)) 0 0) (env w) false true true = .ok ∧
      syncCut (issued (synced w (unit3 2 0 0 0)) 0 0) (env w) = false) ∧
    (0 ≤ ((0 : BitVec 32) - 0).toInt ∧ ((0 : BitVec 32) - 1).toInt < 0) ∧
    (∀ op ∈ [2, 3], ∀ b ∈ [unit3 3 0 0 0, unit3 3 1 0 5, unit3 3 1 1 7], let w := stepW 2 op 0 (9 * 64 + 3) 1 0 0 0 1
      issues (synced w b) 0 0 (env w) 0x02 op ∧ syncStatus (issued (synced w b) 0 0) (env w) true false true = .ok ∧
      syncCut (issued (synced w b) 0 0) (env w) = false) ∧
    -- ARRIVE_WAIT that fills the unit is not waited for after it
    (let w := stepW 2 3 0 (9 * 64 + 3) 1 0 0 0 1
     (barrierOf (arriveAt (issued (synced w (unit3 1 0 0 0)) 0 0) (env w)).1 0 3).bitsOf 0 0 % 4 = 0) := by decide +kernel

/-- SIGNAL and SIGNAL_FENCED of word 4. -/
theorem test_signals_hypotheses :
    ∀ op ∈ [4, 5], let w := stepW 2 op 0 0 0 4 0 1 1
      (env w).field ≠ 0xFF ∧ issues (synced w (unit3 2 0 0 0)) 0 0 (env w) 0x02 op ∧
      syncStatus (issued (synced w (unit3 2 0 0 0)) 0 0) (env w) false true false = .ok ∧
      syncCut (issued (synced w (unit3 2 0 0 0)) 0 0) (env w) = false ∧
      fenceReaches (synced w (unit3 2 0 0 0)) (env w).quarter = true := by decide +kernel

/-- A context asleep on wire 9 for word 4 to reach 1. -/
def asleep (word clock : Nat) : State :=
  let s := synced 1 (unit3 2 0 0 0)
  { s with
    tiles := { s.tiles with ctxs := [(0, { owner := 0, state := .sleeping, waiting := some ⟨.signal 4 1, 9, 0, 10⟩ })] }
    sync := { s.sync with words := if word = 0 then [] else [(4, BitVec.ofNat 32 word)], sent := [(9, 1)] }
    power := { s.power with sclk := clock } }

/-- A wake pulse to a sleeper whose condition holds and to one whose condition does not; a timeout at its last tick. -/
theorem test_sleepers_hypotheses :
    (∀ v ∈ [0, 1], SMap.get 0 (asleep v 5).sync.served (2304 * 9) < SMap.get 0 (asleep v 5).sync.sent 9 ∧
      tileRuns (asleep v 5) 0 = true ∧ ringReaches (asleep v 5) 0 (tileQuarter 0) = true ∧ (ctxOf (asleep v 5) 0 0).state = .sleeping ∧
      (ctxOf (asleep v 5) 0 0).waiting = some ⟨.signal 4 1, 9, 0, 10⟩ ∧ waitHolds (asleep v 5) (.signal 4 1) = (v == 1) ∧
      stepEntry (asleep v 5) 0 0 = some ⟨1, 0⟩) ∧
    (∀ v ∈ [0, 1], (ctxOf (asleep v 10) 0 0).state = .sleeping ∧
      (ctxOf (asleep v 10) 0 0).waiting = some ⟨.signal 4 1, 9, 0, 10⟩ ∧ tileRuns (asleep v 10) 0 = true ∧
      0 + 10 ≤ (asleep v 10).power.sclk ∧ condReaches (asleep v 10) 0 (.signal 4 1) = true ∧ stepEntry (asleep v 10) 0 0 = some ⟨1, 0⟩) ∧
    (∀ g, Wait.signal 4 1 ≠ .coll g) := by
  refine ⟨by decide +kernel, by decide +kernel, fun g h => nomatch h⟩

/-- Four participants: the fourth arrival releases, ROUND counts one, ARRIVED and EARLY are those of the next round (11 R287). -/
theorem test_release :
    let w := stepW 2 1 0 3 0 0 0 0 1
    let b := barrierOf (after (.arrive 0 0) (synced w (unit3 4 3 1 0))) 0 3
    b.round = 1 ∧ b.releases = 1 ∧ b.arrived = 1 ∧ b.early = 0 := by decide +kernel

/-- A threshold is reached modulo 2^32: 5 has reached 0xFFFFFFFE, and 0xFFFFFFFE has not reached 5 (03 R83). -/
theorem test_threshold_wraps : signalReached 5 0xFFFFFFFE = true ∧ signalReached 0xFFFFFFFE 5 = false := by decide

/-! ### Queues -/

/-- A work item: VALID, ENTRY 1. -/
def item1 : Nat := 2 ^ 15 + 1
/-- Two items in a list of tile 0, its descriptor in slot 4096; a queue. -/
def queued (w : BitVec 128) (q : Queue) : State :=
  let s := put (slot (world w) 4096 (desc (padAddr 0 0x28000) 0 0 1 2 0 0 0xFFFF 0)) (padAddr 0 0x28000) (leBytes 64 item1 ++ leBytes 64 item1)
  { s with tiles := { s.tiles with queues := [(0, q)] } }

/-- ENQUEUE of two items into a queue that has just room, and into one that has not. -/
theorem test_enqueue_hypotheses :
    let w := stepW 3 1 0 2 0x1000 4096 0 0 1
    ∀ k ∈ [254, 255],
      let s := queued w ⟨3, k⟩
      let e := env w
      issues s 0 0 e 0x03 1 ∧ memorySound s ∧
      let r := readSlots (issued s 0 0) e (issueSlots (issued s 0 0) e [stepA w] [] [])
      let n := stepHi w
      let g := enqueueTarget e
      let q := queueOf s g e.field
      let base := (operand r e (stepA w) .zero).d.base
      Status.lowest (enqueueConds r e) = .ok ∧ runsCut r e [(base, 64 * n), (padAddr g 0, 1)] = false ∧
      Status.lowest (itemConds (listItems r e (stepA w) n) false) = .ok ∧
      (runsInMemory ((List.range n).map fun i => (queueSlot e.fd g (q.head + q.count + i), 64))) ∧
      (q.count + n ≤ 256 ↔ k = 254) := by decide +kernel

/-- TAKE of an own item, and with an empty queue. -/
theorem test_take_hypotheses :
    let w := stepW 3 2 0 0 0 0xFFFF 0 0 1
    ∀ k ∈ [0, 1], let s := queued w ⟨3, k⟩
      issues s 0 0 (env w) 0x03 2 ∧ memorySound s ∧ stepUnit w = 0 ∧ stepA w = 0xFFFF ∧ (env w).fd.repeatDenom = 0 ∧
      (queueOf s 0 0).count = k := by decide +kernel

/-- A gleaning request: tile 1, or no tile, holds an item of the field. -/
def gleaned (k : Nat) : State :=
  let s := put (world (stepW 3 2 0 0 0 0xFFFF 0 0 1)) (padAddr 1 0) (leBytes 64 item1)
  { s with
    tiles := { s.tiles with
      ctxs := [(0, { owner := 0, state := .running, gleaning := true })]
      queues := if k = 0 then [] else [(16, ⟨0, k⟩)] } }

theorem test_glean_hypotheses :
    let e := env (stepW 3 2 0 0 0 0xFFFF 0 0 1)
    ∀ k ∈ [0, 1],
      envAt (gleaned k) 0 0 .running = some e ∧ (ctxOf (gleaned k) 0 0).gleaning = true ∧ memorySound (gleaned k) ∧
      e.fd.repeatDenom = 0 ∧ stepA e.word = 0xFFFF ∧
      (searchOrder 0).find? (openToGlean (gleaned k) e.fd e.field) = (if k = 0 then none else some 1) ∧
      (putBackOf (gleaned k) 1 e.field).isEmpty = true := by decide +kernel

/-- One live channel: 2.5 GiB of stack memory. -/
def stacked (s : State) : State := { s with mem := { s.mem with live := [0] } }

/-- A pool of two slots at 0x1000 with its descriptor in slot 4096, and a list of one item, slot 4097. -/
def pooled (held : Nat) : State :=
  let s := put (stacked (world (stepW 3 3 0 0 1 4096 4097 0 1))) 0x1000 (PoolBlock.bytes ⟨0, held, 0, held % 2, false⟩)
  let s := slot (slot s 4096 (desc 0x1000 0 0 1 2 0 0 0xFFFF 0)) 4097 (desc (padAddr 0 0x29000) 0 0 1 1 0 0 0xFFFF 0)
  put s (padAddr 0 0x29000) (leBytes 64 item1)

theorem test_pool_put_hypotheses :
    let w := stepW 3 3 0 0 1 4096 4097 0 1
    ∀ k ∈ [1, 2],
      let s := pooled k
      let e := env w
      issues s 0 0 e 0x03 3 ∧ memorySound s ∧ stepUnit w = 0 ∧ 1 ≤ stepCount w ∧ stepCount w ≤ 65536 ∧
      let r := readSlots (issued s 0 0) e (issueSlots (issued s 0 0) e [stepA e.word, stepB e.word] [] [])
      let n := stepCount e.word
      let pool := (operand r e (stepA e.word) .zero).d
      let list := (operand r e (stepB e.word) .zero).d
      let p := PoolBlock.parse (seeBytes r none pool.base 64)
      let slots := (List.range n).map fun i => pool.base + 64 + 64 * ((p.tailSlot + i) % pool.ext.i0)
      Status.lowest (poolConds r e (stepA e.word) ++ listConds r e (stepB e.word) n) = .ok ∧ runBusy r pool.base 64 = false ∧
      runsCut r e ((list.base, 64 * n) :: (pool.base, 64) :: slots.map fun a => (a, 64)) = false ∧
      Status.lowest (itemConds (listItems r e (stepB e.word) n) true) = .ok ∧ p.status pool.ext.i0 = .ok ∧
      (p.held + n ≤ pool.ext.i0 ↔ k = 1) ∧
      (slots.any fun a => runBusy (runAccs r e [.rd list.base (64 * n) true false, .rd pool.base 64 false false]).1 a 64) = false := by
  decide +kernel

/-- An item put in and taken out again: the context holds it at its ENTRY, the queue is empty (03 R92 to R94). -/
theorem test_enqueue_then_take :
    let s := after (.enqueue 0 0) (queued (stepW 3 1 0 2 0x1000 4096 0 0 1) ⟨3, 254⟩)
    let t := after (.take 0 0) (queued (stepW 3 2 0 0 0 0xFFFF 0 0 1) ⟨255, 1⟩)
    (queueOf s 0 0) = ⟨3, 256⟩ ∧ itemAt s none (padAddr 0 64) = BitVec.ofNat 512 item1 ∧ queueOf t 0 0 = ⟨0, 0⟩ := by decide +kernel

/-- The search starts in the own plot at the first tile above and wraps, then goes to the plots at distance 1 (03 R97). -/
theorem test_search_order :
    (searchOrder 1).take 16 = [2, 3, 24, 25, 26, 27, 48, 49, 50, 51, 72, 73, 74, 75, 0, 4] ∧ (searchOrder 1).length = 143 := by
  decide +kernel

/-! ### The matrix array -/

/-- Operands of one element in BF16, A row-major in slots 4096 to 4098, B in bales in 4100 to 4102, D in 4104 and 4105; for WIDE8 A
and B are INT8. A is 1.5, the first B 2. -/
def mats (w : BitVec 128) (wide : Bool) : State :=
  let P := padAddr 0
  let f := if wide then 5 else 1
  let s := [0, 1, 2].foldl (fun s i => slot s (4096 + i) (desc (P (0x28000 + 0x100 * i)) f 0 2 1 1 1 0xFFFF 0)) (world w)
  let s := [0, 1, 2].foldl (fun s i => slot s (4100 + i) (desc (P (0x30000 + 0x1000 * i)) f 1 2 1 1 1 0xFFFF 1)) s
  let s := [0, 1].foldl (fun s i => slot s (4104 + i) (desc (P (0x38000 + 0x100 * i)) 1 0 2 1 1 1 0xFFFF 0)) s
  put (put s (P 0x28000) (leBytes 2 0x3FC0)) (P 0x30000) (leBytes 2 0x4000)

/-- A step word of the array: UNIT 1, M, N and K one. -/
def arrayW (op m n : Nat) : BitVec 128 := stepW 4 op 1 m (2 ^ 12 + n * 64) 4096 4100 4104 1

/-- Each operation with one element, its destinations taking no statistics. -/
theorem test_array_hypotheses :
    ∀ p ∈ arrayRows 0 0 none,
      let w := arrayW p.2.2 1 1
      let s := mats w (p.2.1 == .wide8)
      let e := env w
      issues s 0 0 e 0x04 p.2.2 ∧ memorySound s ∧
      let r := arrayIssue (issued s 0 0) e p.2.1
      let x := arrayMats r e p.2.1
      (∀ o ∈ x.ds, 1 ≤ (recipeOf e.fd o.d.kind).history ∧ o.rec_ = none ∧ o.sg.group < 2) ∧
      Status.lowest (arrayConds r e p.2.1) = .ok ∧ runsCut r e (arrayFar e x (arrayShape w)) = false ∧
      (arrayShape w).m = 1 ∧ (arrayShape w).n = 1 ∧ stepUpset e none = none ∧ (stepUpset e (some ⟨true, 0, 0, none⟩)).isSome = true := by
  decide +kernel

/-- A step without a row. -/
theorem test_array_empty_hypotheses :
    let w := arrayW 1 0 1
    let s := mats w false
    let r := arrayIssue (issued s 0 0) (env w) .matmul
    issues s 0 0 (env w) 0x04 1 ∧ (∀ o ∈ (arrayMats r (env w) .matmul).ds, 1 ≤ (recipeOf (env w).fd o.d.kind).history) ∧
    Status.lowest (arrayConds r (env w) .matmul) = .ok ∧ (arrayShape w).m = 0 := by decide +kernel

/-- 1.5 × 2 is 3, and one 16-bit multiply-accumulate is counted (05 R143; 16 R422). -/
theorem test_matmul_product :
    let t := after (.matmul 0 0 none) (mats (arrayW 1 1 1) false)
    seeBytes t none (padAddr 0 0x38000) 2 = leBytes 2 0x4040 ∧ t.wb.accum.work = [(0, 1)] := by decide +kernel

/-- A region that a field occupies, in its chaff ramp. -/
theorem test_chaff_hypotheses : tileRuns (world 1) 0 = true ∧ fieldsOn (world 1) 0 ≠ [] ∧
    (∃ p : ArrayUpset, p.column % 32 / 16 ∈ [0, 1]) := by refine ⟨by decide +kernel, by decide +kernel, ⟨true, 0, 0, none⟩, by decide⟩

/-! ### The vector chain -/

/-- A shape that stores A: a load and a store. -/
def storeShape : BitVec 512 :=
  let stage := fun (p t x : Nat) => (t * 2 ^ 52 + x * 2 ^ 44) * 2 ^ (64 + 56 * p)
  BitVec.ofNat 512 (1 + 0xFFFF * 2 ^ 48 + stage 0 1 8 + stage 1 8 0)

/-- One element of BF16 from slot 4096 to slot 4098. -/
def chained : State :=
  let s := world (stepW 5 1 0 0 1 4096 0xFFFF 4098 1)
  let s := { s with fields := { s.fields with fields := [(0, some { fd0 with shapes := [storeShape] })] } }
  put (slot (slot s 4096 (desc (padAddr 0 0x28000) 1 0 1 1 0 0 0xFFFF 0)) 4098 (desc (padAddr 0 0x28100) 1 0 1 1 0 0 0xFFFF 0))
    (padAddr 0 0x28000) (leBytes 2 0x3FC0)

def chainEnv : Env := { env (stepW 5 1 0 0 1 4096 0xFFFF 4098 1) with fd := { fd0 with shapes := [storeShape] } }

theorem test_chain_hypotheses :
    issues chained 0 0 chainEnv 0x05 1 ∧ memorySound chained ∧
    let r := chainIssue (issued chained 0 0) chainEnv
    let k := chainWork r chainEnv
    1 ≤ (recipeOf chainEnv.fd k.c.d.d.kind).history ∧ Status.lowest (chainConds r chainEnv) = .ok ∧
    runsCut r chainEnv (chainFar chainEnv k.c) = false ∧ k.c.d.rec_ = none ∧ k.neg = false ∧ k.above = false ∧
    k.due = [⟨0, 0x3FC00000, 0⟩] ∧ 0 < ceilDiv k.c.count 64 ∧ 0 < k.c.d0 + k.c.count := by decide +kernel

theorem test_chain_stores :
    seeBytes (after (.chainRun 0 0) chained) none (padAddr 0 0x28100) 2 = leBytes 2 0x3FC0 := by decide +kernel

/-! ### Moves, fences and lofts -/

/-- COPY and FILL of a block of two by one elements of BF16 from slot 4096 to slot 4098. -/
def moved (w : BitVec 128) : State :=
  put (slot (slot (world w) 4096 (desc (padAddr 0 0x28000) 1 0 2 2 1 2 0xFFFF 0)) 4098 (desc (padAddr 0 0x28100) 1 0 2 2 1 2 0xFFFF 0))
    (padAddr 0 0x28000) (leBytes 2 0x1234 ++ leBytes 2 0x5678)

theorem test_moves_hypotheses :
    (let w := stepW 6 1 0 0 (2 + 2 ^ 20) 4096 0xFFFF 4098 1
     let s := moved w
     let r := readSlots (issued s 0 0) (env w) (issueSlots (issued s 0 0) (env w) [stepA w, stepD w] [] [])
     let a := operand r (env w) (stepA w) (env w).originA
     let d := operand r (env w) (stepD w) (env w).originD
     issues s 0 0 (env w) 0x06 1 ∧ memorySound s ∧ Status.lowest (copyConds r (env w)) = .ok ∧
     runsCut r (env w) (moveRuns (env w) a ++ moveRuns (env w) d) = false ∧ runsInMemory (moveRuns (env w) d) ∧
     separate d.d (blockPos d.origin (moveE0 w) (moveE1 w)) ∧ moveE0 w = 2 ∧ moveE1 w = 1) ∧
    (let w := stepW 6 3 0 0 (2 + 2 ^ 20) 0 0xABCD 4098 1
     let s := moved w
     let r := readSlots (issued s 0 0) (env w) (issueSlots (issued s 0 0) (env w) [stepD w] [] [])
     let d := operand r (env w) (stepD w) (env w).originD
     issues s 0 0 (env w) 0x06 3 ∧ memorySound s ∧ Status.lowest (fillConds r (env w)) = .ok ∧
     runsCut r (env w) (moveRuns (env w) d) = false ∧ runsInMemory (moveRuns (env w) d) ∧
     separate d.d (blockPos d.origin (moveE0 w) (moveE1 w))) := by decide +kernel

/-- A of a COPY on another tile, whose words a hop can spoil. -/
theorem test_move_hops_hypotheses :
    let w := stepW 6 1 0 0 (2 + 2 ^ 20) 4096 0xFFFF 4098 1
    let s := slot (slot (world w) 4096 (desc (padAddr 1 0x8000) 1 0 2 2 1 2 0xFFFF 0)) 4098 (desc (padAddr 0 0x28100) 1 0 2 2 1 2 0xFFFF 0)
    let r := readSlots (issued s 0 0) (env w) (issueSlots (issued s 0 0) (env w) [stepA w, stepD w] [] [])
    let a := operand r (env w) (stepA w) (env w).originA
    let d := operand r (env w) (stepD w) (env w).originD
    let k := padAddr 1 0x8000 / 16
    issues s 0 0 (env w) 0x06 1 ∧ Status.lowest (copyConds r (env w)) = .ok ∧
    runsCut r (env w) (moveRuns (env w) a ++ moveRuns (env w) d) = false ∧ runsInMemory (moveRuns (env w) d) ∧
    inPad 0 (16 * k) = false ∧ (∃ x ∈ moveRuns (env w) a, x.2 ≠ 0 ∧ x.1 / 16 ≤ k ∧ k ≤ (x.1 + x.2 - 1) / 16) := by decide +kernel

/-- A word that a hop spoils ends the COPY with E_UNCORRECTABLE (09 R239). -/
theorem test_copy_hop_spoils :
    let w := stepW 6 1 0 0 (2 + 2 ^ 20) 4096 0xFFFF 4098 1
    let s := slot (slot (world w) 4096 (desc (padAddr 1 0x8000) 1 0 2 2 1 2 0xFFFF 0)) 4098 (desc (padAddr 0 0x28100) 1 0 2 2 1 2 0xFFFF 0)
    (ctxOf (after (.copy 0 0 [padAddr 1 0x8000 / 16]) s) 0 0).lastStatus = .uncorrectable := by decide +kernel

theorem test_copy_and_fill :
    seeBytes (after (.copy 0 0 []) (moved (stepW 6 1 0 0 (2 + 2 ^ 20) 4096 0xFFFF 4098 1))) none (padAddr 0 0x28100) 4
      = leBytes 2 0x1234 ++ leBytes 2 0x5678 ∧
    seeBytes (after (.fill 0 0) (moved (stepW 6 3 0 0 (2 + 2 ^ 20) 0 0xABCD 4098 1))) none (padAddr 0 0x28100) 4
      = leBytes 2 0xABCD ++ leBytes 2 0xABCD := by decide +kernel

/-- Two quarters in service, the ring up; the base die 0 has logged line 5 for field 0 and both lofts hold it; loft 0 has a fill of
line 6 outstanding, marked or not. -/
def lofted (marked : Bool) : State :=
  let s := stacked (world (stepW 6 2 0 0 0 0 0 0 1))
  { s with
    power := { s.power with quarters := [(0, { inService := true }), (1, { inService := true })] }
    ports := { s.ports with rings := (List.range 4).map fun i => (i, { state := .up, modules := 1 }) }
    mem := { s.mem with
      lofts := [(0, { lines := [(5, zeros 256)], fills := [⟨6, zeros 256, marked⟩] }), (1, { lines := [(5, zeros 256)] })]
      logs := [(0, ⟨[5], false⟩)] } }

theorem test_lofts_hypotheses :
    (let w := stepW 6 2 0 0 0 0 0 0 1
     issues (lofted false) 0 0 (env w) 0x06 2 ∧ bits w.toNat 113 16 = 0 ∧ fenceReaches (lofted false) (env w).quarter = true ∧
     0 ∈ servingQuarters (lofted false) ∧ 1 ∈ servingQuarters (lofted false) ∧
     (SMap.get {} (lofted false).mem.logs 0).overflow = false ∧ 5 ∈ (SMap.get {} (lofted false).mem.logs 0).lines) ∧
    (∀ m ∈ [true, false], ((loftOf (lofted m) 0).fills.find? fun g => g.line == 6) = some ⟨6, zeros 256, m⟩) ∧
    ringReaches (lofted false) 0 ((placement (lofted false) 6).1 / 128) = true ∧
    (∀ o ∈ [InvalOrder.external 5, .fence [5], .drop 0], ∀ h ∈ orderHomes (lofted false) o, ringReaches (lofted false) h 1 = true) ∧
    (∃ x ∈ (loftOf (lofted false) 1).lines, x.1 = 5) := by decide +kernel

/-- The fence takes line 5 from loft 1, counts it there, and clears the log (08 R222, R225, R227). -/
theorem test_fence_invalidates :
    let t := after (.fence 0 0) (lofted false)
    (loftOf t 1).lines = [] ∧ (loftOf t 1).invFence = 1 ∧ (loftOf t 0).lines = [(5, zeros 256)] ∧ t.mem.logs = [] := by decide +kernel

/-! ### Scan engines and check-value units -/

/-- A gather of one row of four bytes by index 1 of an A of two rows, into D. -/
def gathering : State :=
  let s := world (stepW 7 1 0 0 1 4096 4097 4098 1)
  let s := slot s 4096 (desc (padAddr 0 0x28000) 5 0 2 4 2 4 0xFFFF 0)
  let s := slot s 4097 (desc (padAddr 0 0x28100) 0x0C 0 1 1 0 0 0xFFFF 0)
  let s := slot s 4098 (desc (padAddr 0 0x28200) 5 0 2 4 1 4 0xFFFF 0)
  put (put s (padAddr 0 0x28004) [1, 2, 3, 4]) (padAddr 0 0x28100) (leBytes 4 1)

/-- The row within A; with index 2, outside it, only under the zero fill. -/
theorem test_gather_hypotheses :
    let w := stepW 7 1 0 0 1 4096 4097 4098 1
    let r := readSlots (issued gathering 0 0) (env w) (issueSlots (issued gathering 0 0) (env w) [stepA w, stepB w, stepD w] [] [])
    let g := gatherOf r (env w)
    issues gathering 0 0 (env w) 0x07 1 ∧ memorySound gathering ∧ Status.lowest (gatherConds r (env w)) = .ok ∧
    runsCut r (env w) (g.aRuns ++ g.bRuns ++ g.dRuns) = false ∧ runsInMemory g.dRuns ∧
    (∀ i, i < g.n → (gatherRow r (env w) g i).isSome = true) ∧
    g.dRuns.Pairwise (fun x y => x.1 + x.2 ≤ y.1 ∨ y.1 + y.2 ≤ x.1) := by decide +kernel

/-- An engine programmed with two blocks of one word from tile 0's scratchpad, to unit 1. -/
def sweepReg : Scan := { start := padAddr 0 0x28000, stride := 16, count := 2, block16m1 := 0, initFirst := true, cvu := 1 }
def sweeping (w : BitVec 128) : State := { world w with units := { scans := [(0, sweepReg)] } }
/-- The same as the 256 bits of START to GO. -/
def sweepBits (go : Nat) : BitVec 256 :=
  BitVec.ofNat 256 (padAddr 0 0x28000 + 16 * 2 ^ 64 + 2 * 2 ^ 128 + go * 2 ^ 192 + 2 ^ 193 + 2 ^ 194)

theorem test_sweep_hypotheses :
    (let w := stepW 7 2 0 0 0 0 0 0 1
     issues (sweeping w) 0 0 (env w) 0x07 2 ∧ memorySound (sweeping w) ∧ bits w.toNat 109 16 = 0 ∧
     scanOf (sweeping w) 0 0 = sweepReg ∧ runsCut (issued (sweeping w) 0 0) (env w) (sweepRuns sweepReg) = false ∧
     sweepStatus (issued (sweeping w) 0 0) (some 0) sweepReg (cvuOf (sweeping w) 0 1) = .ok) ∧
    (∀ go ∈ [0, 1], let v := sweepBits go
     (quarterOf (world 1) 0).inService = true ∧ (quarterOf (world 1) 0).inReset = false ∧ (scanOf (world 1) 0 0).busy = false ∧
     v.toNat &&& scanReserved = 0 ∧ bit v.toNat 192 = (go == 1)) ∧
    sweepStatus (setScan (world 1) 0 0 sweepReg) (some 0) sweepReg (cvuOf (world 1) 0 1) = .ok ∧
    sweepStatus (setScan (world 1) 0 0 sweepReg) none sweepReg (cvuOf (world 1) 0 1) = .ok := by decide +kernel

/-- A tensor of the nine bytes "123456789" for unit 0. -/
def feeding : State :=
  put (slot (world (stepW 8 1 0 0 1 4096 0xFFFF 0xFFFF 1)) 4096 (desc (padAddr 0 0x28000) 5 0 1 9 0 0 0xFFFF 0)) (padAddr 0 0x28000)
    [0x31, 0x32, 0x33, 0x34, 0x35, 0x36, 0x37, 0x38, 0x39]

theorem test_feed_hypotheses :
    let w := stepW 8 1 0 0 1 4096 0xFFFF 0xFFFF 1
    let r := readSlots (issued feeding 0 0) (env w) (issueSlots (issued feeding 0 0) (env w) [stepA w] [] [])
    let d := (operand r (env w) (stepA w) .zero).d
    issues feeding 0 0 (env w) 0x08 1 ∧ memorySound feeding ∧ Status.lowest (feedConds r (env w)) = .ok ∧
    (cvuOf feeding 0 0).ready = true ∧ runsCut r (env w) (tensorRuns d) = false ∧ runsInMemory (tensorRuns d) := by decide +kernel

/-- CRC-32C of "123456789" (09 R252's parameters at reset). -/
theorem test_feed_crc : (cvuOf (after (.feed 0 0) feeding) 0 0).result = 0xE3069283 ∧ (cvuOf (after (.feed 0 0) feeding) 0 0).bytes = 9 := by
  decide +kernel

/-! ### Collectives -/

/-- Field 0 with every bank, and group 0 of a number of members on the ports 0 and 1, this package its member `rank`. -/
def fdC : Field := { fd0 with banks := 255 }
def rec0 (members rank : Nat) : GroupRec :=
  { group := 0, lane := 0, members := members, rank := rank, nextPort := 0, prevPort := 1, nextSerial := 2, prevSerial := 3
    queueBase := padAddr 0 0x3F000, cribTiles := [0], lengths := [], check := 5 }
/-- A parameter block: TIMEOUT 10, DONE_EN with word 4, no SUMSQ, the cribs at 0x40000, SPLIT, BF16 (11 R298). -/
def params0 : BitVec 256 := BitVec.ofNat 256 (10 * 2 ^ 224 + 4 * 2 ^ 212 + 2 ^ 209 + 0xFFFF * 2 ^ 192 + 64 * 2 ^ 168 + 2 ^ 153 + 2 ^ 144)
def cmd0 (op : CollOp) : CollCmd :=
  { op := op, tile := 0, ctx := 0, opSeq := 1, length := 1, descA := none, scaleA := none, descD := none, scaleD := none
    params := params0, scalars := [0], slotD := 4098, key := 0, start := 0, imm := 0 }
def run0 (op : CollOp) (received sent : Nat) : CollRun := ⟨cmd0 op, [], sent, received, sent, false, 0x80000000, .ok⟩

/-- The package with group 0; its ports 0 and 1 are up, with the group's neighbours. -/
def grouped (w : BitVec 128) (g : Group) : State :=
  let s := world w
  { s with
    fields := { s.fields with fields := [(0, some fdC)] }
    sync := { attrs := [(4, ⟨0, 9⟩)] }
    colls := [(0, some g)]
    ports := { ports := [(0, { state := .up, modules := 1, peerSerial := 2, credits := fullCredits 63 63 }),
      (1, { state := .up, modules := 1, peerSerial := 3, credits := fullCredits 63 63 })] } }

/-- The step word of a COLL operation, with its slots. -/
def collW (op : CollOp) : BitVec 128 :=
  let slotted := op.data || op == .scalarAllreduce
  stepW 9 op.code 0 0 (if op == .scalarAllreduce || op == .barrier then 0 else 1) (if slotted then 4096 else 0xFFFF) 4097
    (if slotted then 4098 else 0xFFFF) 1

/-- A member alone issues each operation. -/
def colling (op : CollOp) : State :=
  let s := grouped (collW op) { field := 0, desc := rec0 0 0 }
  let t := op != .scalarAllreduce
  let s := if t then slot s 4096 (desc (padAddr 0 0x28000) 1 0 1 1 0 0 0xFFFF 0) else s
  let s := slot s 4097 params0.toNat
  if t then slot s 4098 (desc (padAddr 0 0x28100) 1 0 1 1 0 0 0xFFFF 0) else s

theorem test_coll_hypotheses :
    ∀ p ∈ collRows 0 0,
      let w := collW p.2.1
      let e : Env := { env w with fd := fdC }
      let s := colling p.2.1
      let g : Group := { field := 0, desc := rec0 0 0 }
      issues s 0 0 e 0x09 p.2.2 ∧ memorySound s ∧ bits (stepHi w) 4 0 = 0 ∧ groupOf s 0 = some g ∧
      Status.lowest (collConds (collIssue (issued s 0 0) e p.2.1) e p.2.1) = .ok ∧ g.queue.length + b2n g.run.isSome < 255 ∧
      ringReaches s e.quarter g.desc.home = true ∧ g.desc.size = 1 ∧ g.state = .ready ∧ g.run = none ∧ g.queue = [] ∧
      tileRuns s (g.desc.crib 0) = true ∧ noBusy s ∧
      collCut s g (collRecord (collIssue (issued s 0 0) e p.2.1) e p.2.1 g) = false := by decide +kernel

/-- A ready group of one member with a command of each kind; one of two members; a group that runs a BARRIER as member 1. -/
theorem test_sequencer_hypotheses :
    (∀ op ∈ [CollOp.barrier, .signalPeer], let g : Group := { field := 0, desc := rec0 0 0, queue := [cmd0 op] }
      let s := grouped 1 g
      groupOf s 0 = some g ∧ fieldOf s g.field = some fdC ∧ tileRuns s (g.desc.crib 0) = true ∧ g.state = .ready ∧ g.run = none ∧
      g.desc.size = 1 ∧ collCut s g (cmd0 op) = false) ∧
    (let g : Group := { field := 0, desc := rec0 1 0, queue := [cmd0 .scalarAllreduce] }
     let s := grouped 1 g
     groupOf s 0 = some g ∧ fieldOf s g.field = some fdC ∧ g.desc.size ≠ 1 ∧ (portOf s g.desc.nextPort).peerSerial = g.desc.nextSerial ∧
     (portOf s g.desc.prevPort).peerSerial = g.desc.prevSerial ∧ collCut s g (cmd0 .scalarAllreduce) = false) ∧
    (∀ p ∈ [(0, false), (1, true)],
      let g : Group := { field := 0, desc := rec0 1 1, state := .running, run := some (run0 .barrier 0 0) }
      let h : BitVec 128 := BitVec.ofNat 128 (2 ^ 96 + 5 * 2 ^ 76 + 2 ^ 75 + p.1)
      let s := grouped 1 g
      memorySound s ∧ noBusy s ∧ collCut s g (cmd0 .barrier) = false ∧ (headerEpoch h - g.epoch).msb = false ∧ headerOpSeq h = 1 ∧
      (headerMatches g (run0 .barrier 0 0) h).isNone = p.2) := by decide +kernel

theorem test_quiet_lanes (w : BitVec 128) (g : Group) : quietLanes (grouped w g) := by
  intro k
  simp only [portOf, grouped, SMap.get]
  split
  · rfl
  · split <;> rfl

theorem test_quiet_lanes_colling (op : CollOp) : quietLanes (colling op) := by
  have h : (colling op).ports = (grouped 0 { field := 0, desc := rec0 0 0 }).ports := by cases op <;> rfl
  intro k
  simpa only [portOf, h] using test_quiet_lanes 0 _ k

/-- A BARRIER of one member whose part has ended, its step asleep; the same at its timeout; member 0 of a partitioned group. -/
def collAsleep (g : Group) (clock : Nat) : State :=
  let s := grouped 1 g
  { s with
    tiles := { s.tiles with ctxs := [(0, { owner := 0, state := .sleeping, waiting := some ⟨.coll 0, 0, 0, 10⟩ })] }
    power := { s.power with sclk := clock } }

theorem test_command_end_hypotheses :
    (let g : Group := { field := 0, desc := rec0 0 0, state := .running, run := some (run0 .barrier 0 0) }
     let s := collAsleep g 10
     groupOf s 0 = some g ∧ partEnded s g (run0 .barrier 0 0) = true ∧ memorySound s ∧ noBusy s ∧ collCut s g (cmd0 .barrier) = false ∧ (cmd0 .barrier).doneEn = true ∧
     ringReaches s g.desc.home (cmd0 .barrier).doneQuarter = true ∧
     (attrOf s (cmd0 .barrier).doneQuarter (cmd0 .barrier).doneWord).field ≠ 0xFF ∧ (ctxOf s 0 0).state = .sleeping ∧
     (ctxOf s 0 0).waiting.map Waiting.cond = some (.coll 0) ∧ stepEntry s 0 0 = some ⟨1, 0⟩ ∧
     (cmd0 .barrier).start + (cmd0 .barrier).timeout ≤ s.power.sclk) ∧
    (let g : Group := { field := 0, desc := rec0 1 0, state := .partitioned }
     groupOf (grouped 1 g) 0 = some g ∧ g.desc.rank = 0 ∧ g.desc.size ≠ 1 ∧ groupCut (grouped 1 g) g = false) := by decide +kernel

/-- The end adds to DONE_WORD and wakes the step (11 R300). -/
theorem test_command_end :
    let g : Group := { field := 0, desc := rec0 0 0, state := .running, run := some (run0 .barrier 0 0) }
    let t := after (.collectiveCommandEnd 0) (collAsleep g 10)
    signalOf t 0 4 = 1 ∧ (ctxOf t 0 0).state = .ready ∧ ((groupOf t 0).map Group.doneOpSeq) = some 1 := by decide +kernel

/-! ### Filub ports -/

/-- A data flit of group 0 to receive slot 0, and a flit of a type and a lane with a word 1. -/
def dataFlit : Flit := ⟨flitWrite, 0, 0, 0, 0, 0, padAddr 0 0x40100, 16, 0, false, zeros 16⟩
def flitOf (type lane addr word : Nat) : Flit := ⟨type, lane, 0, 0, 0, 0, addr, 16, 0, false, leBytes 16 word⟩
/-- Member 1 of two, running a command that expects chunks. -/
def member1 : Group := { field := 0, desc := rec0 1 1, state := .running, run := some (run0 .allreduce 0 0) }

theorem test_accepts (f : Flit) (g : Group) (k : Nat) (hk : k < 2) (h : flitOk f = true ∧ flitLink f = false ∧ f.seq = 0) :
    accepts (grouped 1 g) k f := by
  obtain ⟨a, b, c⟩ := h
  have hp : (portOf (grouped 1 g) k) = { state := .up, modules := 1, peerSerial := if k = 0 then 2 else 3, credits := fullCredits 63 63 } := by
    match k, hk with
    | 0, _ => rfl
    | 1, _ => rfl
  refine ⟨by omega, by rw [hp], a, b, by rw [hp, c], ?_, by rw [hp], by rw [hp], test_quiet_lanes 1 g⟩
  rw [hp]
  simp [noSlot, SMap.get, advertised]

theorem test_write_flit_hypotheses :
    flitOk dataFlit = true ∧ flitLink dataFlit = false ∧ dataFlit.seq = 0 ∧ memorySound (grouped 1 member1) ∧
    flitGroup (grouped 1 member1) dataFlit = some member1 ∧ writeFlitStatus (grouped 1 member1) dataFlit (some member1) = .ok ∧
    member1.state ≠ .partitioned ∧ member1.state ≠ .abandoned ∧ member1.run = some (run0 .allreduce 0 0) ∧
    0 ≠ (expectPlan member1.desc (cmd0 .allreduce)).length ∧ receiveSlot member1 (cmd0 .allreduce) dataFlit.addr = some 0 ∧
    runCut (grouped 1 member1) (portQuarter 0) dataFlit.addr dataFlit.length = false := by
  decide +kernel

/-- A SIGNAL flit to word 4, to an address that is no word, and of a group that does not exist. -/
theorem test_signal_flit_hypotheses :
    (∀ a ∈ [quarterWindow 0 + 0x20010, 8], let f := flitOf flitSignal 0 a 1
      flitOk f = true ∧ flitLink f = false ∧ f.seq = 0 ∧ f.type = flitSignal ∧ isControl f = false) ∧
    signalTarget (quarterWindow 0 + 0x20010) = some (0, 4) ∧ signalTarget 8 = none ∧ quarterHeld (grouped 1 member1) 0 = false ∧
    (attrOf (grouped 1 member1) 0 4).field ≠ 0xFF ∧ ringReaches (grouped 1 member1) (portQuarter 0) 0 = true ∧
    (flitGroup (grouped 1 member1) (flitOf flitSignal 0 (quarterWindow 0 + 0x20010) 1)).isSome = true ∧
    (let f := { flitOf flitSignal 0 (quarterWindow 0 + 0x20010) 1 with tag := 7 }
     flitOk f = true ∧ flitLink f = false ∧ f.seq = 0 ∧ f.type = flitSignal ∧ isControl f = false ∧ f.lane < 16 ∧
     flitGroup (grouped 1 member1) f = none) := by decide +kernel

/-- Group control flits of each code, with the groups that the clauses name. -/
theorem test_control_flit_hypotheses :
    (∀ c ∈ [1, 2, 3, 4, 5], let f := flitOf flitSignal 0 0 (c + 256 + 5 * 65536)
      flitOk f = true ∧ flitLink f = false ∧ f.seq = 0 ∧ isControl f = true ∧ bits (word1 f) 127 32 = 0 ∧ controlCode f = c ∧
      flitGroup (grouped 1 member1) f = some member1 ∧ BitVec.ofNat 16 (bits (word1 f) 31 16) = 5) ∧
    ((5 - member1.epoch).msb = false ∧ 5 ≠ member1.epoch ∧ groupCut (grouped 1 member1) member1 = false ∧ member1.desc.rank ≠ 0 ∧
      member1.desc.check = 5) ∧
    (let g : Group := { field := 0, desc := rec0 1 0, state := .partitioned }
     flitGroup (grouped 1 g) (flitOf flitSignal 0 0 3) = some g ∧ g.desc.rank = 0 ∧ groupCut (grouped 1 g) g = false) ∧
    (let g : Group := { field := 0, desc := rec0 1 1, state := .partitioned }
     flitGroup (grouped 1 g) (flitOf flitSignal 0 0 4) = some g ∧ g.desc.rank ≠ 0 ∧ g.state ≠ .abandoned) := by decide +kernel

/-- ABANDON of group 0; REFUSE of a data flit of group 0 and of group 7, which does not exist. -/
theorem test_refuse_hypotheses :
    (let f := flitOf flitAbandon 0 0 6
     flitOk f = true ∧ flitLink f = false ∧ f.seq = 0 ∧ flitGroup (grouped 1 member1) f = some member1 ∧ member1.state ≠ .abandoned) ∧
    (∀ n ∈ [0, 7], let f := flitOf flitRefuse 16 0 (0x13 + padAddr 0 0 * 2 ^ 33 + n * 2 ^ 75)
      flitOk f = true ∧ flitLink f = false ∧ f.seq = 0 ∧ bits (word1 f) 82 75 = n ∧ bits (word1 f) 74 33 = padAddr 0 0 ∧ bits (word1 f) 20 16 = 0) ∧
    groupOf (grouped 1 member1) 0 = some member1 ∧ groupOf (grouped 1 member1) 7 = none ∧ (cmd0 .allreduce).op ≠ .signalPeer ∧
    scratchBase ≤ padAddr 0 0 ∧ padAddr 0 0 < windowBase := by
  decide +kernel

/-- Port 0 with two flits held, three times replayed. -/
def held2 (replays : Nat) (nak : Bool) : State :=
  { world 1 with ports := { ports := [(0, { state := .up, modules := 1, held := [dataFlit, { dataFlit with seq := 1 }], txSeq := 2
                                            replays := replays, nakSent := nak })] } }

theorem test_link_flit_hypotheses :
    (portOf (held2 6 false) 0).state = .up ∧ (portOf (held2 6 false) 0).waiting = [] ∧ (portOf (held2 6 false) 0).late = none ∧
    flitOk ⟨flitIdle, 31, 0, 1, 0, 3, 0, 0, 0, false, []⟩ = true ∧ flitOk ⟨flitNak, 31, 0, 1, 0, 0, 0, 0, 0, false, []⟩ = true ∧
    ackedBy (portOf (held2 6 false) 0) ⟨flitIdle, 31, 0, 1, 0, 3, 0, 0, 0, false, []⟩ = 1 ∧ (portOf (held2 6 false) 0).replays < 7 ∧
    7 ≤ (portOf (held2 7 false) 0).replays ∧ (portOf (held2 6 true) 0).nakSent = true := by decide +kernel

/-- The eighth replay in a row retrains the port (10 R269). -/
theorem test_eighth_replay : (portOf (after (.replayTimeout 0) (held2 7 false)) 0).retrains = 1 ∧
    (portOf (after (.replayTimeout 0) (held2 6 false)) 0).retrains = 0 := by decide +kernel

/-- A port in a state with some modules. -/
def portIn (st : PortState) (modules : BitVec 10) : State := { world 1 with ports := { ports := [(0, { state := st, modules := modules })] } }
def identFlit0 : Flit := flitOf flitIdent 31 0 (2 + 3 * 2 ^ 64)

theorem test_module_hypotheses :
    ((portOf (portIn .training 1) 0).state = .training ∧ 0 = lowModule (portOf (portIn .training 1) 0) ∧ flitOk identFlit0 = true ∧
      BitVec.ofNat 64 (bits (word1 identFlit0) 63 0) ≠ (portIn .training 1).mgmt.fuses.serial) ∧
    (∀ m ∈ [1, 3], bit m 0 = true) ∧ (1 &&& ~~~(BitVec.ofNat 10 (2 ^ 0)) : BitVec 10) = 0 ∧ (3 &&& ~~~(BitVec.ofNat 10 (2 ^ 0)) : BitVec 10) ≠ 0 ∧
    (bit (SMap.get 0x3FF (portIn .up 1).ports.fitted 0).toNat 1 = true ∧ bit (portOf (portIn .up 1) 0).modules.toNat 1 = false ∧
      (portOf (portIn .down 0) 0).state = .down ∧ (portOf (portIn .up 1) 0).held.length < replayWindow ∧
      bit (portOf (portIn .up 1) 0).absent.toNat 1 = false ∧ linkRuns (portIn .up 1) (portQuarter 0) = true) := by decide +kernel

/-- A ring link up at its fifteenth resend, and one that trains. -/
theorem test_ring_link_hypotheses :
    (∀ n ∈ [14, 15], let s := { world 1 with ports := { rings := [(0, { state := .up, modules := 1, resends := n })] } }
      (ringOf s 0).state = .up ∧ (ringOf s 0).resends = n) ∧
    (∀ b ∈ [true, false], let s := { world 1 with ports := { rings := [(0, { state := .training, modules := 1, lastBad := b })] } }
      (ringOf s 0).state = .training ∧ (ringOf s 0).lastBad = b ∧ s.ports.stalled = []) ∧
    ((1 : BitVec 18) &&& 2 = 0 ∧ (3 : BitVec 18) &&& 1 ≠ 0 ∧ (3 : BitVec 18) ≠ 1) := by decide +kernel

theorem test_quiet_ports (st : PortState) (m : BitVec 10) : quietLanes (portIn st m) := by
  intro k
  simp only [portOf, portIn, SMap.get]
  split <;> rfl

/-! ### The training step -/

/-- Field 0 with a mow of 1 MiB and a journal of two slots at address 0. -/
def fdT : Field := { fd0 with journalChunks := 3, mowMib := 1, size := 0x40000000, initExp := 16, growth := 2, scanned := true }
/-- A step of it; what it finds at issue. -/
def trained (w : BitVec 128) : State := { stacked (world w) with fields := { fields := [(0, some fdT)] } }
def envT (w : BitVec 128) : Env := { env w with fd := fdT }

/-- A mow with one frame of layer 3, generation 7 and two units, or none; the tensor of slot 4096 at a base. -/
def mowed (w : BitVec 128) (entries base : Nat) : State :=
  let s := put (trained w) fdT.mowBase (MowBlock.bytes ⟨2 * entries, entries, 2, 0, 0, 0⟩)
  slot (put s (frameAddr fdT 0) (Frame.bytes ⟨3, 7, 0, 2⟩)) 4096 (desc base 1 0 1 8 0 0 0xFFFF 0 + 9 * 2 ^ 224)

/-- PUSH in order, out of order and with no room. -/
theorem test_push_hypotheses :
    ∀ p ∈ [(0x40000, 2, true, true), (0x40100, 2, false, true), (0x40000, 3841, true, false)],
      let w := stepW 10 1 0 3 (256 * p.2.1) 0xFFFF 0xFFFF 4096 1
      let s := mowed w 0 p.1
      let e := envT w
      let r := readSlots (issued s 0 0) e (issueSlots (issued s 0 0) e [stepD w] [] [])
      let d := (operand r e (stepD w) e.originD).d
      let m := mowBlock s e
      issues s 0 0 e 0x0A 1 ∧ memorySound s ∧ e.fd.mowSize < 2 ^ 40 ∧ runsInMemory (mowRuns e.fd) ∧ runsCut s e (mowRuns e.fd) = false ∧
      m.entries ≤ 4092 ∧ Status.lowest (pushConds r e) = .ok ∧
      ((d.base = frameArea e.fd + 256 * m.top) ↔ p.2.2.1 = true) ∧
      ((m.top + stepLo w / 256 ≤ frameUnits e.fd ∧ m.entries < 4092) ↔ p.2.2.2 = true) := by decide +kernel

/-- POP of the top frame, of it with a stale tensor, and of a tensor that is not the top. -/
theorem test_pop_hypotheses :
    ∀ p ∈ [(0x40000, 0xFFFF, true, false), (0x40000, 4096, true, true), (0x40100, 0xFFFF, false, false)],
      let w := stepW 10 2 0 3 0 p.2.1 0xFFFF 4096 1
      let s := mowed w 1 p.1
      let e := envT w
      let m := mowBlock s e
      let r := readSlots (issued s 0 0) e (issueSlots (issued s 0 0) e ([stepD w] ++ if stepA w != 0xFFFF then [stepA w] else []) [] [])
      let d := (operand r e (stepD w) e.originD).d
      let f := Frame.parse (seeBytes s (some e.quarter) (frameAddr e.fd (m.entries - 1)) 16)
      issues s 0 0 e 0x0A 2 ∧ m.entries ≤ 4092 ∧ Status.lowest (popConds r e) = .ok ∧
      ((m.entries ≠ 0 ∧ f.layer = stepHi w ∧ frameArea e.fd + 256 * f.offset = d.base) ↔ p.2.2.1 = true) ∧
      ((stepA w ≠ 0xFFFF ∧ (operand r e (stepA w) e.originA).d.gen ≠ f.gen) ↔ p.2.2.2 = true) := by decide +kernel

theorem test_clear_hypotheses :
    let w := stepW 10 3 0 0 0 0xFFFF 0xFFFF 0xFFFF 1
    issues (mowed w 1 0x40000) 0 0 (envT w) 0x0A 3 ∧
    Status.lowest (mowConds (issued (mowed w 1 0x40000) 0 0) (envT w) (stepA w != 0xFFFF || stepB w != 0xFFFF || stepD w != 0xFFFF
      || stepHi w != 0 || stepLo w != 0) []) = .ok := by decide +kernel

theorem test_push_then_pop :
    let w := stepW 10 1 0 3 512 0xFFFF 0xFFFF 4096 1
    let v := stepW 10 2 0 3 0 0xFFFF 0xFFFF 4096 1
    mowBlock (after (.push 0 0) (mowed w 0 0x40000)) (envT w) = ⟨2, 1, 2, 0, 0, 0⟩ ∧
    mowBlock (after (.pop 0 0) (mowed v 1 0x40000)) (envT v) = ⟨0, 0, 2, 0, 0, 0⟩ := by decide +kernel

/-- The step record in a state with a decision, the journal's control block zero; a scalar block in slot 4096 with S and V. -/
def recorded (w : BitVec 128) (state decision sumsq replay : Nat) : State :=
  let r : StepRecord := ⟨5, 4, state, decision, 16, 1, lossScaleOf 16, 0, 0, 0, 0, 0⟩
  slot (put (trained w) 0 (r.bytes ++ zeros 64)) 4096 (sumsq + replay * 2 ^ 32)

/-- PREPARE that stores and that gives back, with the record open and decided. -/
theorem test_prepare_hypotheses :
    ∀ p ∈ [(0, 0), (0, 1), (0, 2), (1, 2)],
      let w := stepW 11 2 0 0 p.1 4096 0xFFFF 0xFFFF 1
      let s := recorded w p.2 0 0x40800000 0
      let e := envT w
      let blk := readSlot e (issued s 0 0) (stepA w)
      journalled s e ∧ issues s 0 0 e 0x0B 2 ∧ runsCut blk e (recordRuns e.fd) = false ∧
      Status.lowest (updateConds blk e (updateUnused w true false false true || 2 ≤ stepLo w) true (scalarConds blk e (stepA w))) = .ok ∧
      (stepRecord s (some e.quarter) e.fd).state = p.2 := by decide +kernel

/-- COMMIT of a good step, of one with an infinite sum and of one with a stale shard. -/
theorem test_commit_hypotheses :
    ∀ p ∈ [(0x40800000, 0), (0x7F800000, 0), (0x40800000, 0x3F800000)],
      let w := stepW 11 3 0 0 0 4096 0xFFFF 0xFFFF 1
      let s := recorded w 1 0 p.1 p.2
      let e := envT w
      let blk := readSlot e (issued s 0 0) (stepA w)
      journalled s e ∧ issues s 0 0 e 0x0B 3 ∧ runsCut blk e (recordRuns e.fd) = false ∧
      Status.lowest (updateConds blk e (updateUnused w true false false false) true (scalarConds blk e (stepA w))) = .ok ∧
      (stepRecord s (some e.quarter) e.fd).state = 1 ∧ scalarOf blk e (stepA w) 0 = p.1 ∧ scalarOf blk e (stepA w) 1 = p.2 := by decide +kernel

/-- TAG of a tensor in the scratchpad; GENCHECK of one tag that is right and of one that is not. -/
def tagged (w : BitVec 128) (gen : Nat) : State :=
  put (slot (recorded w 0 0 0 0) 4097 (desc (padAddr 0 0x28000) 1 0 1 8 0 0 0xFFFF 0 + 4 * 2 ^ 224)) (padAddr 0 0x28000) (tagBytes gen)

theorem test_tag_hypotheses :
    let w := stepW 11 7 0 0 0 0xFFFF 0xFFFF 4097 1
    let s := tagged w 0
    let e := envT w
    let r := readSlots (issued s 0 0) e (issueSlots (issued s 0 0) e [stepD w] [] [])
    let d := (operand r e (stepD w) e.originD).d
    journalled s e ∧ issues s 0 0 e 0x0B 7 ∧
    Status.lowest (updateConds r e (updateUnused w false false true false) false
      (operandConds r e (stepD w) e.originD (fun f => f != .none && f != .int32) false ++
        ((d.base % 16 != 0 || d.layout == 2, .range) :: runConds r e true [(d.base, 16)]))) = .ok ∧
    runsCut r e [(d.base, 16)] = false ∧ runsCut r e (recordRuns e.fd) = false ∧ d.base < windowBase := by decide +kernel

theorem test_gencheck_hypotheses :
    ∀ g ∈ [4, 3],
      let w := stepW 11 8 0 0 1 4097 0xFFFF 0xFFFF 1
      let s := tagged w g
      let e := envT w
      let r := readSlots (issued s 0 0) e (issueSlots (issued s 0 0) e [stepA w] [] [])
      let d := (operand r e (stepA w) e.originA).d
      let tags := (tagAddr d 0, 16)
      issues s 0 0 e 0x0B 8 ∧ memorySound s ∧
      Status.lowest (updateConds r e (updateUnused w true false false true) false
        (operandConds r e (stepA w) e.originA (fun f => f == .bf16 || f == .hi16) false ++ [(1 < 1 || 8192 < 1, .range)]
          ++ runConds r e false [tags])) = .ok ∧
      d.rank = 1 ∧ d.layout = 0 ∧ 8 ≤ d.ext.i0 ∧ runsCut r e [tags] = false ∧ tags.1 + tags.2 ≤ windowBase ∧
      (seeBytes r (some e.quarter) (tagAddr d 0) 16 = tagBytes d.gen ↔ g = 4) := by decide +kernel

/-- The field's plots hold the tiles whose rounding keys INIT writes; each journal slot is listed as zero. -/
theorem test_init_hypotheses :
    let w := stepW 11 1 0 0 5 0xFFFF 0xFFFF 0xFFFF 1
    let s := recorded w 0 0 0 0
    let e := envT w
    let r := issued s 0 0
    let slots := e.fd.quarters.flatMap fun q => (slotAddrs e.fd q).map fun a => (a, 256)
    journalled s e ∧ issues s 0 0 e 0x0B 1 ∧ applyInFlight r e.field = false ∧
    Status.lowest (updateConds r e (updateUnused w false false false true) true
      (runConds r e true (ctlRuns e.fd ++ slots ++ keyRuns e.fd))) = .ok ∧
    runsCut r e (slots ++ keyRuns e.fd ++ recordRuns e.fd ++ ctlRuns e.fd) = false := by decide +kernel

/-- CLOSE of each decision, and with the growth interval reached. -/
theorem test_close_hypotheses :
    ∀ d ∈ [0, 1, 2],
      let w := stepW 11 5 0 0 0 0xFFFF 0xFFFF 0xFFFF 1
      let s := recorded w 2 d 0 0
      let e := envT w
      let r := issued s 0 0
      journalled s e ∧ issues s 0 0 e 0x0B 5 ∧ (stepRecord s (some e.quarter) e.fd).state = 2 ∧ (stepRecord s (some e.quarter) e.fd).decision = d ∧
      (stepRecord s (some e.quarter) e.fd).lsExp ≤ 40 ∧ e.fd.scanned = true ∧ (∀ q ∈ e.fd.quarters, (journalBlock s (some e.quarter) e.fd q).inUse = 0) ∧
      Status.lowest (updateConds r e (updateUnused w false false false false) true (runConds r e true (ctlRuns e.fd ++ keyRuns e.fd))) = .ok ∧
      runsCut r e (keyRuns e.fd ++ recordRuns e.fd ++ ctlRuns e.fd) = false ∧ e.fd.growth ≤ (stepRecord s (some e.quarter) e.fd).good + 1 ∧
      (0 + 1 < e.fd.growth) := by decide +kernel

/-- A good step moves STEP on and takes its generation; LS_EXP grows at the growth interval (12 R339). -/
theorem test_close_good_step :
    let r := stepRecord (after (.updateClose 0 0) (recorded (stepW 11 5 0 0 0 0xFFFF 0xFFFF 0xFFFF 1) 2 0 0 0)) none fdT
    r.step = 6 ∧ r.gen = 5 ∧ r.lsExp = 17 ∧ r.good = 0 ∧ r.state = 0 := by decide +kernel
/-- A block of eight elements: weights, moments, gradients and stubbles at 0x20000000, the optimiser block in slot 4104 with its
marks at 0x20090000, the staging area in tile 0's bank 0 (12 R340, R341). Cells stand in the order in which they are looked up. -/
def applying (mark : Nat) : State :=
  let A := 0x20000000
  let r : StepRecord := ⟨5, 4, 2, 0, 16, 1, lossScaleOf 16, 0, 0, 0, 0, 0⟩
  let s := trained (stepW 11 4 0 0 8 4096 4104 4105 1)
  let s := (List.range 7).foldl (fun s k => slot s (4096 + k)
    (desc (A + k * 0x10000) ([0x11, 0x12, 1, 1, 1, 4, 4].getD k 0) 0 1 8 0 0 (if k < 5 then 0xFFFF else 4101 + k) ([0, 0, 4, 5, 3, 6, 6].getD k 0)))
    { s with mem := { s.mem with bytes := { s.mem.bytes with zeroed := [0] } } }
  let s := slot s 4104 (0x3DCCCCCD + (A + 0x90000) * 2 ^ 192 + 2 ^ 234)
  let s := slot s 4105 (desc (padAddr 0 0x8000) 0x0A 0 1 0xFD70 0 0 0xFFFF 7)
  let s := slot (slot s 4106 (4 + (A + 0x85000) * 2 ^ 64 + 0xFFFF * 2 ^ 208)) 4107 (4 + (A + 0x86000) * 2 ^ 64 + 0xFFFF * 2 ^ 208)
  put (put (put s 0 r.bytes) (A + 0x90000) (leBytes 2 mark)) 0x10008 [0]

theorem applying_issue (mark : Nat) (hm : mark ∈ [4, 5]) :
    applyIssue (issued (applying mark) 0 0) (envT (stepW 11 4 0 0 8 4096 4104 4105 1)) = issued (applying mark) 0 0 := by
  have h1 : memorySound (issued (applying mark) 0 0) := rfl
  have h2 : stackTop (issued (applying mark) 0 0) ≤ scratchBase := by
    show 2684354560 * 1 ≤ scratchBase
    decide
  unfold applyIssue
  dsimp only
  rw [readSlots_sound h1 h2 (by decide)]
  refine if_neg ?_
  revert mark
  decide +kernel

theorem applying_free :
    let e := envT (stepW 11 4 0 0 8 4096 4104 4105 1)
    ((slotAddrs e.fd e.quarter).any fun a => (slotHeader (issued (applying 4) 0 0) none a).free) = true := by
  have hb : ((seeBytes (issued (applying 4) 0 0) none 0x10000 256).getD 8 0).toNat.testBit 0 = false := by decide +kernel
  have hf : (slotHeader (issued (applying 4) 0 0) none 0x10000).free = true := by
    unfold SlotHeader.free slotHeader SlotHeader.parse bit
    dsimp only
    rw [leNat_testBit, hb]
    rfl
  exact List.any_eq_true.mpr ⟨0x10000, by decide +kernel, hf⟩

/-- APPLY of a block whose mark is older than the step, and of one already updated. -/
theorem test_apply_hypotheses :
    ∀ mark ∈ [4, 5],
      let w := stepW 11 4 0 0 8 4096 4104 4105 1
      let s := applying mark
      let e := envT w
      let r := issued s 0 0
      let x := applyIn r e
      let rec0 := stepRecord r (some e.quarter) e.fd
      issues s 0 0 e 0x0B 4 ∧ memorySound s ∧
      Status.lowest (updateConds r e (stepHi w != 0) true (applyForm r e ++ applyPlaces r e x)) = .ok ∧
      runsCut r e (x.reads ++ x.writes ++ [(e.fd.journalBase e.quarter, e.fd.journal), (journalCtl e.fd e.quarter, 64)]
        ++ recordRuns e.fd) = false ∧
      rec0.state = 2 ∧ rec0.decision = 0 ∧ e.fd.scanned = true ∧ runsInMemory (applyStores e x) ∧ runsApart (applyStores e x) ∧
      (∀ a ∈ applyStores e x, ∀ b ∈ applyStats e x, a.1 + a.2 ≤ b.1 ∨ b.1 + b.2 ≤ a.1) ∧
      (∀ k ∈ x.moments, 1 ≤ (recipeOf e.fd (x.op k).d.kind).history ∧ (x.op k).rec_ = none) ∧
      (leNat (seeBytes r (some e.quarter) x.markAddr 2) = rec0.step % 65536 ↔ mark = 5) := by decide +kernel

/-- A journal of one slot: retired, or open for a block of eight elements at 0x20000000 and up (12 R346, R347). -/
def journalling (isOpen : Bool) : State :=
  let A := 0x20000000
  let h : SlotHeader := ⟨7, 5, isOpen, false, 0x1F, 8, A, A + 0x10000, A + 0x20000, A + 0x30000, A + 0x40000, A + 0x50000, A + 0x60000, 5⟩
  let s := put (trained (stepW 11 6 0 0 0 0xFFFF 0xFFFF 0xFFFF 1)) 0 (StepRecord.bytes ⟨5, 4, 0, 0, 16, 1, lossScaleOf 16, 0, 0, 0, 0, 0⟩ ++ zeros 64)
  put { s with fields := { fields := [(0, some { fdT with journalChunks := 2 })] } } 0x10000 h.bytes

/-- RECOVER with no open slot, and with one. -/
theorem test_recover_hypotheses :
    let w := stepW 11 6 0 0 0 0xFFFF 0xFFFF 0xFFFF 1
    let e := { envT w with fd := { fdT with journalChunks := 2 } }
    ∀ o ∈ [false, true],
      let s := journalling o
      let r := issued s 0 0
      let journal := (e.fd.journalBase 0, e.fd.journal)
      issues s 0 0 e 0x0B 6 ∧ journalled s e ∧ e.fd.quarters = [0] ∧ applyInFlight r e.field = false ∧
      Status.lowest (updateConds r e (updateUnused e.word false false false false) true (runConds r e true (ctlRuns e.fd))) = .ok ∧
      Status.lowest (runConds r e true [journal]) = .ok ∧ runsCut r e [journal] = false ∧
      openSlots s (some e.quarter) e.fd = (if o then [0x10000] else []) ∧
      (o = true →
        let h := slotHeader s (some e.quarter) 0x10000
        let homes := [(h.homeHi, 2 * h.count), (h.homeLo, 2 * h.count), (h.homeMom1, 2 * h.count), (h.homeMom2, 2 * h.count),
          (h.homeStb, h.count), (h.homeScale, 2 * ceilDiv h.count 128)]
        1 ≤ h.count ∧ h.count ≤ blockMax ∧ runsInMemory (homes ++ [(h.homeMark, 2)]) ∧
        Status.lowest (runConds r e true (homes ++ [(h.homeMark, 2)])) = .ok ∧
        runsCut r e (homes ++ [(h.homeMark, 2)]) = false ∧ runsApart (homes ++ [(h.homeMark, 2), journal])) := by decide +kernel

/-! ### Statistics, repeats, proving items -/

/-- A tensor entry at 0x1000 last updated in step 3; bit 280 is reserved. -/
def entried (reserved : Bool) : State :=
  put (stacked (world 0)) 0x1000 (leBytes 64 (leNat (TensorEntry.bytes ⟨5, 6, 1, 2, 3, 4, 0x4000, 3, 1023, false⟩) + if reserved then 2 ^ 280 else 0))
def update3 (step : BitVec 32) (ring : Nat) : StatUpdate := ⟨0x1000, step, 1024, ring, 0x3F80, 8, 1, 0, 0, 0, 0⟩

/-- An update of the same step, of a new step with a ring just below the entry and just above it, and of a reserved entry. -/
theorem test_statistics_hypotheses :
    ∀ p ∈ [(false, 3, 0), (false, 4, 0x1000 - 2048), (false, 4, 0x1000), (true, 4, 0x2000)],
      let s := entried p.1
      let u := update3 (BitVec.ofNat 32 p.2.1) p.2.2
      let t := TensorEntry.parse (seeBytes s none u.base 64)
      let pos := t.histPos % u.history
      let ring := (u.histBase + 2 * pos, 2)
      u.base % 64 = 0 ∧ runAllowed s .tile true u.base 64 = true ∧ u.base + 64 ≤ windowBase ∧ memorySound s ∧ 1 ≤ u.history ∧ u.history ≤ 1024 ∧
      (u.histBase = 0 ∨ (runAllowed s .tile true ring.1 2 = true ∧ (ring.1 + 2 ≤ u.base ∨ (u.base + 64 ≤ ring.1 ∧ ring.1 + 2 ≤ windowBase)))) ∧
      t.reserved = p.1 ∧ (t.lastStep ≠ u.step.toNat ↔ p.2.1 = 4) := by decide +kernel

/-- The ring takes the old maximum at its last place and starts over (06 R173). -/
theorem test_statistics_new_step :
    let u := after (.statisticsUpdate (update3 4 0x1000)) (entried false)
    let t := TensorEntry.parse (seeBytes u none 0x1000 64)
    t.histPos = 0 ∧ t.amax = 0x3F80 ∧ t.elements = 13 ∧ t.lastStep = 4 ∧ seeBytes u none 0x17FE 2 = [0, 0x40] := by decide +kernel

def wr1 (d : BitVec 128) : WordWrite := ⟨true, 0x20000, d⟩
/-- Tile 0's context 0 holds an item under check by tiles 1 and 2 and stands at its ITEM_END, or not yet. -/
def checking (d1 : BitVec 64) (d2 : Option (BitVec 64)) (atEnd : Bool) (level : Nat) : State :=
  let s := world (stepW 3 7 0 0 0 0xFFFF 0xFFFF 0xFFFF 1)
  { s with
    tiles := { s.tiles with
      ctxs := [(0, { owner := 0, state := .running, item := some 0, digest := d1, check := some ⟨some 1, some 2, 0, d2, none, atEnd⟩ })]
      checks := [(1, some ⟨0, 0⟩)], level := [(0, level)] }
    power := { s.power with sclk := 2000000 } }
def envC : Env := { env (stepW 3 7 0 0 0 0xFFFF 0xFFFF 0xFFFF 1) with item := some 0 }

/-- A copy that matches and one that does not; its two tiles can be taken. -/
theorem test_repeat_compare_hypotheses :
    let k : RepeatCheck := ⟨some 1, some 2, 0, none, none, true⟩
    (awaits (checking (runDigest [wr1 5]) none true 0) 0 0 envC k 1 2 ∧ k.d2 = none ∧
      runDigest [wr1 5] = (ctxOf (checking (runDigest [wr1 5]) none true 0) 0 0).digest) ∧
    (awaits (checking 0 none true 0) 0 0 envC k 1 2 ∧ runDigest [wr1 5] ≠ (ctxOf (checking 0 none true 0) 0 0).digest ∧
      (∀ at_ ∈ [1, 2], ∀ p ∈ (checking 0 none true 0).tiles.checks, p.1 = at_ → p.2 = none ∨ p.2 = some ⟨0, 0⟩)) := by decide +kernel

/-- The four digests' rows: permanent below level 5 and at it, transient of the original, of the copy, unresolved. -/
theorem test_repeat_resolve_hypotheses :
    ∀ p ∈ [(5, 6, 6, 5, 0), (5, 6, 6, 5, 4), (5, 6, 6, 6, 0), (5, 6, 5, 5, 0), (5, 6, 7, 8, 0)],
      let dig := fun (n : Nat) => runDigest [wr1 (BitVec.ofNat 128 n)]
      let s := checking (dig p.1) (some (dig p.2.1)) true p.2.2.2.2
      let d1 := (ctxOf s 0 0).digest
      let d2 := dig p.2.1
      let d3 := dig p.2.2.1
      let d4 := dig p.2.2.2.1
      awaits s 0 0 envC ⟨some 1, some 2, 0, some d2, none, true⟩ 1 2 ∧ checkFor s 2 0 0 = true ∧ checkFor s 0 0 0 = true ∧
      ((d4 = d1 ∧ d3 = d2) ↔ p.2.2.1 = 6 ∧ p.2.2.2.1 = 5) ∧ (nextLevel s 0 = 5 ↔ p.2.2.2.2 = 4) ∧
      (d4 = d3 ∧ d3 = d2 ↔ p.2.2.2.1 = 6) ∧ (d1 = d3 ∧ d3 = d4 ↔ p.2.2.1 = 5) := by decide +kernel

/-- A check of 20 ms that has not reached its ITEM_END. -/
theorem test_repeat_timeout_hypotheses :
    let s := checking 0 none false 0
    let k : RepeatCheck := ⟨some 1, some 2, 0, none, none, false⟩
    (ctxOf s 0 0).check = some k ∧ k.outcome = none ∧ k.atEnd = false ∧ k.started + 2000000 ≤ s.power.sclk := by decide +kernel

/-- A pack of one item; tile 600 has no field. -/
def packed (digest : BitVec 64) : State :=
  let s := world 0
  { s with
    mgmt := { s.mgmt with pack := some ⟨1, [⟨digest, 0, [1], zeros 32, zeros 16⟩]⟩ }
    power := { s.power with quarters := [(0, { inService := true }), (1, { inService := true })] } }

/-- A proving item whose digest is the one expected, and one whose digest is not. -/
theorem test_proving_hypotheses :
    ∀ d ∈ [0, 1],
      let s := packed (BitVec.ofNat 64 d)
      ∃ p i, s.mgmt.pack = some p ∧ p.items[0]? = some i ∧ canProve s 600 = true ∧ memorySound s ∧ i.slots.length ≤ 2048 ∧
        i.data.length ≤ 786432 ∧ i.steps.length ≤ 64 ∧ (runDigest (([] : List WordWrite).filter (·.own)) = i.digest ↔ d = 0) ∧ nextLevel s 600 < 5 := by
  intro d hd
  exact ⟨⟨1, [⟨BitVec.ofNat 64 d, 0, [1], zeros 32, zeros 16⟩]⟩, ⟨BitVec.ofNat 64 d, 0, [1], zeros 32, zeros 16⟩, rfl, rfl, by revert d; decide +kernel⟩

/-! ### Stacks, windows, the host -/

/-- A stack of a quarter in service in a thermal state; a near field on its quarter. -/
def stackWas (t : Thermal) : State :=
  { world 0 with mem := { thermal := [(1, t)] }, fields := { fields := [(0, some { fd0 with near := some 0 })] } }

theorem test_stack_reading_hypotheses :
    ∀ t ∈ [Thermal.normal, .tooHot, .critical],
      let s := stackWas t
      1 < 16 ∧ (quarterOf s (1 / 4)).inService = true ∧ s.power.pllLocked = true ∧ wrapperTaken s (1 / 4) = false ∧ thermalOf s 1 = t ∧
      ∃ fd, fieldOf s 0 = some fd ∧ onStack s fd 1 = true := by
  intro t _
  exact ⟨by decide, rfl, rfl, rfl, rfl, { fd0 with near := some 0 }, rfl, rfl⟩

/-- The table of 08 R232 at each of its temperatures. -/
theorem test_stack_reading_table :
    let next := fun (t : Thermal) (c : Int) => thermalOf (after (.stackTemperatureRead 1 c) (stackWas t)) 1
    next .normal 84 = .normal ∧ next .normal 85 = .tooHot ∧ next .normal 95 = .critical ∧ next .tooHot 81 = .tooHot ∧
    next .tooHot 80 = .normal ∧ next .critical 85 = .critical ∧ next .critical 84 = .tooHot ∧
    fieldOf (after (.stackTemperatureRead 1 95) (stackWas .normal)) 0 = none := by decide +kernel

/-- A row of the one live channel, and a row that has failed. -/
theorem test_patrol_hypotheses :
    ∀ g ∈ [0, 10485759],
      let s := stacked (world 0)
      channelRuns s 0 = true ∧ slotGranule s 0 g = some g ∧ memorySound s := by decide +kernel

def rowFailing (spares : Nat) : State :=
  let s := stacked (world 0)
  { s with mem := { s.mem with rowTimes := [(5, [0, 0, 0, 0])], channels := [(0, { spares := spares })]
                               corrected := [((5, 0, 0xFFF, 0), 3), ((3, 2, 600, 1), 1)] } }

theorem test_repair_hypotheses :
    ∀ n ∈ [0, 95],
      let s := rowFailing n
      channelRuns s 0 = true ∧ rowFailed s 0 5 = true ∧ (channelAt s 0).marked = false ∧ wrapperTaken s 0 = false ∧ 5 < rowSlots ∧
      memorySound s ∧ s.mem.retired.length < 4096 ∧ (channelAt s 0).spares < 96 := by decide +kernel

theorem test_summary_hypotheses :
    let mine := fun (q : Nat) (p : (Nat × Nat × Nat × Nat) × Nat) => p.1.2.2.2 == q
    (rowFailing 0).mem.corrected.filter (mine 0) = [((5, 0, 0xFFF, 0), 3)] ∧ (rowFailing 0).mem.corrected.filter (mine 3) = [] := by
  decide +kernel

/-- A scan engine's block, a unit's of 8 and of 64 bits, and a signal word with an owner. -/
theorem test_window_hypotheses :
    let s := world 0
    let scan := leBytes 64 (pack [(0, 0x1000), (64, 64), (128, 2), (160, 3), (193, 1), (194, 3)])
    let cvu := fun (n : Nat) => leBytes 64 (pack [(0, n), (9, 1), (64, 7), (256, 5)])
    (ctxOf s 0 0).owner < 16 ∧ stackTop s ≤ windowBase ∧ (∀ q ∈ [0, 1, 2, 3], quarterHeld s q = false) ∧
    scan.length = 64 ∧ leNat scan &&& scanReserved = 0 ∧ bit (leNat scan) 192 = false ∧ (∀ k ∈ [0, 1], (scanOf s 3 k).busy = false) ∧
    (∀ n ∈ [8, 64], (cvu n).length = 64 ∧ leNat (cvu n) &&& cvuReserved = 0 ∧ bits (leNat (cvu n)) 6 0 = n) ∧
    (∀ k ∈ [0, 3], (cvuOf s 3 k).busy = false) := by decide +kernel

/-- Two links held down, so that quarter 3 is cut off (01 R19). -/
def splitRing (s : State) : State :=
  { s with ports := { s.ports with rings := [(2, { state := .heldDown }), (3, { state := .heldDown })] } }

theorem test_signal_write_hypotheses :
    let s := { world 0 with sync := { attrs := [(4096 * 3 + 4095, ⟨0, 63⟩)] } }
    quarterHeld s 3 = false ∧ (attrOf s 3 4095).field ≠ 0xFF ∧ s.power.pllLocked = true ∧ processorRuns s 9 = true ∧
    ringReaches s (processorQuarter 4) 3 = true ∧ ringReaches (splitRing s) (processorQuarter 1) 3 = false ∧
    quarterHeld (splitRing s) 3 = false ∧ processorRuns (splitRing s) 1 = true := by decide +kernel

/-- H0 up with an address, and queue pair 0x1FF ready at a PSN. -/
def hosted (psn : Nat) : State :=
  let s := stacked (world 0)
  { s with
    ports := { h0State := .up, h0Lanes := 1, net := { udpPort := 46100, ipv6 := 1, ipv4 := mappedIpv4 7, vlan := 0x8005, pfc := true }
               qps := [(255, some { state := .rtr, mtu := 1, rkey := 9, remoteQpn := 2, psn := psn, addr := 3 })] }
    mgmt := { s.mgmt with capWord := s.mgmt.capWord ||| 0x4000000000 } }

theorem test_queue_pair_hypotheses :
    ∀ psn ∈ [0, 2 ^ 24 - 1],
      let s := hosted psn
      ∃ q, taken s 0x1FF psn 255 q ∧ (9 : BitVec 32) = q.rkey ∧ (8 : BitVec 32) ≠ q.rkey ∧ 2684354556 + 4 ≤ stackTop s ∧ stackTop s ≤ scratchBase ∧
        memorySound s ∧ noBusy s ∧ runCut s 0 2684354556 4 = false ∧ h0Receives s = true ∧
        unhindered s 255 0 ∧ bufferFull s s.ports.net.rocePrio 4 = false ∧ readsOutstanding s 255 < 16 := by
  intro psn hp
  exact ⟨{ state := .rtr, mtu := 1, rkey := 9, remoteQpn := 2, psn := psn, addr := 3 }, by
    revert psn
    decide +kernel⟩

/-- A pair whose write waits for a ring link, and one with sixteen READs outstanding behind a paused priority. -/
theorem test_pair_waiting_hypotheses :
    let req : Rdma := ⟨0x1FF, 0, 9, 0, false, 1, 2⟩
    let s := hosted 0
    let waiting := { s with ports := { s.ports with stalled := [.write 255 req []] } }
    let reading := { s with ports := { s.ports with held := List.replicate 16 (0, 0, .roce 255 2 ect0 (.data 0 [])) } }
    let q : Qp := { state := .rtr, mtu := 1, rkey := 9, remoteQpn := 2, psn := 0, addr := 3 }
    (taken waiting 0x1FF 0 255 q ∧ pairWaits waiting 255 = true ∧ bufferFull waiting waiting.ports.net.rocePrio 0 = false) ∧
    (taken reading 0x1FF 0 255 q ∧ unhindered reading 255 0 ∧ 16 ≤ readsOutstanding reading 255) := by decide +kernel

/-- A write of two packets at the last PSN but one (10 R257). -/
theorem test_rdma_write :
    let u := after (.rdmaWrite ⟨0x1FF, 2 ^ 24 - 1, 9, 16, false, 1, 2⟩ (leBytes 4 0x11223344)) (hosted (2 ^ 24 - 1))
    seeBytes u none 16 4 = [0x44, 0x33, 0x22, 0x11] ∧ (qpOf u 255).map Qp.psn = some 0 ∧ u.out = [.roce 255 2 ect0 (.ack (2 ^ 24 - 1))] := by decide +kernel

theorem test_frame_hypotheses :
    let s := hosted 0
    s.ports.h0State = .up ∧ prioOpen s s.ports.net.mgmtPrio = true ∧ tagAccepted s none = true ∧ tagAccepted s (some 5) = true ∧
    mappedIpv4 7 = s.ports.net.ipv4 ∧ (1 : BitVec 128) = s.ports.net.ipv6 ∧ s.ports.net.pfc = true ∧ s.ports.held = [] ∧
    s.mgmt.service = .full ∧ hostFull s = true ∧ s.ports.h0Lanes = 1 ∧ linkRuns s 0 = true := by decide +kernel

/-! ### Power, resets, firmware -/

/-- A quarter that keeps nine iterations of one power in each domain, in milliwatts. -/
def looping (x : Quarter) (mw : Nat) : State :=
  let s := world 0
  { s with power := { s.power with quarters := [(0, { x with inService := true, power := List.replicate 9 (List.replicate 4 mw, List.replicate 4 mw) })] } }
def reading (mw : Nat) (c b : Int) : LoopReading := ⟨List.replicate 4 (some mw), List.replicate 4 800, List.replicate 4 [1], c, b, true⟩

/-- Held; over a budget; at 100 °C; at 99 °C; eased for the tenth iteration; over the stack budget; eased stacks. -/
theorem test_loop_hypotheses :
    ∀ p ∈ [(({ hold := true, ladder := 3 } : Quarter), 1000, (20 : Int)), ({ ladder := 9 }, 600000, 20), ({}, 1000, 100), ({ ladder := 2 }, 1000, 99),
        ({ ladder := 2, cool := 9 }, 1000, 96), ({ ladder := 1, floor := true, cool := 9 }, 1000, 20), ({ stackPos := 5, stackCool := 9 }, 1000, 20),
        ({ stackPos := 5 }, 264001, 20)],
      let s := looping p.1 p.2.1
      let r := reading p.2.1 p.2.2 p.2.2
      let x := quarterOf s 0
      let y := x.sample r (estimateOf s 0 r)
      processorRuns s 1 = true ∧ s.power.pllLocked = true ∧ x.inService = true ∧ x.inReset = false ∧ x.distrust = false ∧ x.disagree < 100 ∧
      x.filling = 0 ∧ x.ladder < 10 ∧ (∀ d, d < 4 → r.measured.getD d none = some p.2.1) ∧
      (y.exceeds = true ↔ 264001 ≤ p.2.1) ∧ (y.eased = true ↔ p.2.1 = 1000) ∧ (y.limit 3 < y.drawn 2 ↔ 264001 ≤ p.2.1) := by decide +kernel

/-- A quarter warned eight times within the second, and seven; one whose warning floor is set; readings at the limits. -/
theorem test_power_event_hypotheses :
    ∀ n ∈ [7, 8],
      let s := looping { warned := true, warnings := n, warnTimes := List.replicate n 0, recovery := n, ladder := 7 } 1000
      let x := quarterOf s 0
      let recent := (x.warnTimes.filter fun t => s.power.sclk < t + 100000000) ++ [s.power.sclk]
      x.inService = true ∧ x.warned = true ∧ 0 < x.warnings ∧ (x.floor = true ∨ x.warnTimes.length ≤ 8) ∧ (recent.length ≤ 8 ↔ n = 7) ∧
      x.floor = false ∧ s.power.tripped = false ∧ (x.recovery - 1 ≤ x.ladder ↔ n < 9) := by decide +kernel

def bundle1 : Bundle := ⟨[1], true, 0x01020304, 2⟩
/-- A board whose active slot holds a bundle that the ROM accepts; nothing bad is found. -/
def booting (good locked : Bool) (due : List ResetCause) (service : Service) : State :=
  { State.reset with
    mgmt := { State.reset.mgmt with slots := [(0, some bundle1)], service := service }
    power := { State.reset.power with pwrgood := good, pllLocked := locked, warmDue := due } }
def fineBoard : BootEnv :=
  { badChannels := [], badTiles := [], badQuarters := [], h0At200 := true, h0At1600 := true, h0Up1600 := true, modules := []
    idents := [], ringMasks := [], eeprom := none, flashBad := [] }

theorem test_boot_hypotheses :
    (∀ p ∈ [(true, true), (true, false), (false, true)], boots (booting p.1 p.2 [.warmPin] .off) 0 bundle1) ∧
    heldOff (booting true true [.warmPin] .full) = false ∧ (booting true true [.warmPin] .full).power.warmDue ≠ [] ∧
    (∀ v ∈ [Service.early, .earlyHeld],
     let b := booting true true [] v
     let s := { b with power := { b.power with quarters := [(0, { inService := true })] } }
     s.mgmt.service = v ∧ s.power.pllLocked = true ∧ s.power.tripped = false ∧ processorRuns s 0 = true ∧ s.mgmt.standMark = none ∧
     s.mgmt.trained = none ∧ s.ports.stalled = [] ∧ reachedQuarters (trainRing s fineBoard) (trainedQuarters s fineBoard) = [0, 1, 2, 3]) := by decide +kernel

/-- A quarter in service with a field; processors that run and that restart, with up to two restarts in the minute; a standing
image to write beside each mark; a tree due and the last; a fault log with room. -/
theorem test_firmware_hypotheses :
    (let s := world 0
     (quarterOf s 0).inService = true ∧ fieldOf s 0 = some fd0 ∧ fd0.quarters.contains 0 = true ∧ (∀ p ∈ [0, 8], processorRuns s p = true) ∧
     s.mgmt.service = .full ∧ s.mgmt.log.length + s.mgmt.buffer.length ≤ 32768 ∧ s.mgmt.lostFaults = 0 ∧ s.power.pwrgood = true ∧
     s.mgmt.trees ≤ s.mgmt.sigNext / 2 ^ 20 + 1 ∧ s.mgmt.trees < 2 ^ 20) ∧
    (∀ n ∈ [0, 2],
      let s := { world 0 with mgmt := { service := .early, restarts := [(0, List.replicate n 0)] } }
      ((SMap.get [] s.mgmt.restarts 0).filter fun t => s.power.sclk < t + 60000000000).length = n) ∧
    (let s := { world 0 with mgmt := { restarting := [(0, true), (8, true)], service := .full }, wb := { restarting := true } }
     processorRuns s 8 = false ∧ processorRuns s 0 = false ∧ s.mgmt.waiting = [] ∧ s.mgmt.parked = [] ∧ s.ports.stalled = [] ∧ s.wb.restarting = true ∧ s.wb.waiting = []) ∧
    (∀ k ∈ [none, some 0, some 1],
      let s := { world 0 with mgmt := { standWrite := some [1, 2], standMark := k } }
      s.mgmt.standWrite = some [1, 2] ∧ processorRuns s 0 = true) := by decide +kernel

/-! ### Messages -/

/-- A message from an MCTP endpoint, and a state that serves messages and holds a session of it. -/
def msg (bs : List Byte) : Mail := ⟨.mctp 8, {}, 5, 1, 0, bs⟩
def talking (s : State) : State := { s with mgmt := { s.mgmt with sessions := [{ src := .mctp 8, minor := 0 }] } }

theorem talks (s : State) (bs : List Byte) (h : s.mgmt.service ≠ .off ∧ s.mgmt.service ≠ .recovery ∧ s.mgmt.restarting = [] ∧ s.mgmt.fuses.enterprise = 0 ∧ s.mgmt.parked = []) :
    reaches (talking s) (talking s) (msg bs) := by
  have hp : ∀ p, processorRuns (talking s) p = true := fun p => by simp only [processorRuns, talking, h.2.2.1]; rfl
  refine ⟨⟨h.1, h.2.1, hp 0, ?_⟩, fun p _ => hp p, h.2.2.2.2, { src := .mctp 8, minor := 0 }, rfl, rfl, nofun⟩
  simp only [receiveMail, msg, talking, h.2.2.2.1]
  rfl

/-- A datagram from a permitted address reaches the processor too. -/
theorem test_udp_reaches :
    let s := hosted 0
    let s := { s with mgmt := { s.mgmt with sessions := [{ src := .udp 4 5, minor := 0, last := some (4, []) }] } }
    reaches s (bumpH0 s 1 1) ⟨.udp 4 5, { mac := 2, addr := 1 }, 5, 1, 0, []⟩ :=
  ⟨⟨nofun, nofun, rfl, by decide +kernel⟩, fun _ _ => rfl, rfl, { src := .udp 4 5, minor := 0, last := some (4, []) }, rfl, rfl, fun q bs h => by cases h; decide⟩

/-- Payloads of the lengths that the messages ask for, and with zeros beyond them. -/
theorem test_carries : ∀ n ∈ [0, 1, 2, 3, 8, 12, 13, 14, 16, 24, 32, 41, 64, 1620, 1664], carries (msg (zeros n)) n ∧ carries (msg (zeros (n + 1))) n := by
  decide +kernel

/-- Replies: a type, a reply short enough, a session to keep it in, a datagram's way open. -/
theorem test_reply_hypotheses :
    (0x0092 : Nat) < 0x8000 ∧ (zeros 16384).length < 65536 ∧ sessionOf (talking (world 0)) (.mctp 8) = some { src := .mctp 8, minor := 0 } ∧
    (hosted 0).ports.h0State = .up ∧ prioOpen (hosted 0) (hosted 0).ports.net.mgmtPrio = true := by decide +kernel

/-- A request repeated, one still executing, and one without a session. -/
theorem test_session_hypotheses :
    let i := Instr.setCap (msg [8, 7])
    requestOf i = some (setCapRequest (msg [8, 7])) ∧ (setCapRequest (msg [8, 7])).mine = true ∧ (msg [8, 7]).payload.length ≤ 4096 ∧
    hears (world 0) (world 0) (msg [8, 7]) ∧ sessionOf (world 0) (.mctp 8) = none ∧
    (∀ last, sessionOf { world 0 with mgmt := { sessions := [{ src := .mctp 8, minor := 0, last := last }] } } (.mctp 8) =
      some { src := .mctp 8, minor := 0, last := last }) ∧
    (∀ q, sessionOf { world 0 with mgmt := { sessions := [{ src := .mctp 8, minor := 0, executing := q }] } } (.mctp 8) =
      some { src := .mctp 8, minor := 0, executing := q }) :=
  ⟨rfl, rfl, by decide, ⟨nofun, nofun, rfl, rfl⟩, rfl, fun _ => rfl, fun _ => rfl⟩

/-- A ninth session is one too many; a message cut short is malformed. -/
theorem test_open_hypotheses :
    (world 0).mgmt.sessions.length < 8 ∧ carries (msg (zeros 8)) 8 ∧ (msg []).major = 1 ∧ badMessage (zeros 15) = true ∧
    (let s := { talking (world 0) with mgmt := { sessions := [{ src := .mctp 8, minor := 0, result := [1, 2, 3], resultSeq := some 4 }] } }
     (sessionOf s (.mctp 8)).map Session.result = some [1, 2, 3] ∧
     (∀ p ∈ [(4, 2, 1), (4, 0, 4088)], let m := msg (leBytes 4 p.1 ++ leBytes 4 p.2.1 ++ leBytes 4 p.2.2)
       (sessionOf s (.mctp 8)).bind Session.resultSeq = some (BitVec.ofNat 32 (field m.payload 0 4)) ∧ field m.payload 4 4 < 3 ∧
       1 ≤ field m.payload 8 4 ∧ field m.payload 8 4 ≤ 4088) ∧
     (∀ p ∈ [(5, 2, 1), (4, 3, 1), (4, 0, 0), (4, 0, 4089)], let m := msg (leBytes 4 p.1 ++ leBytes 4 p.2.1 ++ leBytes 4 p.2.2)
       (sessionOf s (.mctp 8)).bind Session.resultSeq ≠ some (BitVec.ofNat 32 (field m.payload 0 4)) ∨ 3 ≤ field m.payload 4 4 ∨
       field m.payload 8 4 < 1 ∨ 4088 < field m.payload 8 4)) := by decide +kernel

/-- Caps at and beyond the ends of their range (13 R352), which the reply carries back. -/
theorem test_set_cap :
    ∀ p ∈ [(1799, 4800), (1800, 1800), (5200, 5200), (5201, 4800)],
      carries (msg (leBytes 2 p.1)) 2 ∧ field (leBytes 2 p.1) 0 2 = p.1 ∧
      (after (.setCap (msg (leBytes 2 p.1))) (talking (world 0))).power.cap = p.2 := by decide +kernel

/-- Powers, resets, queue pairs, the network. -/
theorem test_device_hypotheses :
    let s := talking (hosted 0)
    s.mgmt.service = .full ∧ (∀ k ∈ [0, 1, 2], field (msg [BitVec.ofNat 8 k]).payload 0 1 = k) ∧
    restAllowed s = false ∧ restAllowed { s with tiles := {} } = true ∧ s.power.state ≠ .rest ∧
    (fieldOf s 0).isSome = true ∧ fieldOf s 15 = none ∧ (quarterOf s 0).inService = true ∧ (qpOf s 255).isSome = true ∧ qpOf s 0 = none ∧
    (∀ n ∈ [0, 255],
      let m := msg (leBytes 2 n ++ [2, 0] ++ leBytes 4 9 ++ [3, 0, 0, 0] ++ [4, 0, 0, 0] ++ leBytes 16 7)
      carries m 32 ∧ field m.payload 3 1 = 0 ∧ field m.payload 11 1 = 0 ∧ field m.payload 15 1 = 0 ∧ field m.payload 0 2 = n ∧
      field m.payload 2 1 = 2) ∧
    (let m := msg (zeros 40 ++ [8] ++ zeros 7 ++ zeros 128)
     carries m (setNetNeed m.payload) ∧ (setNetRequest m).spare = false ∧ field m.payload 40 1 = 8) ∧
    (let m := msg (zeros 41)
     carries m (setNetNeed m.payload) ∧ (setNetRequest m).spare = false ∧ field m.payload 34 1 ≤ 7) := by decide +kernel

theorem test_firmware_message_hypotheses :
    let s := talking { world 0 with mgmt := { service := .full, slots := [(1, some bundle1)], bundle := some bundle1, challenge := some 3 } }
    SMap.get none s.mgmt.slots (1 - s.mgmt.active) = some bundle1 ∧ bundle1.authentic = true ∧ s.mgmt.fuses.security ≤ bundle1.security ∧
    SMap.get none (talking (world 0)).mgmt.slots 1 = none ∧ s.mgmt.bundle = some bundle1 ∧ s.mgmt.service = .full ∧ s.mgmt.challenge = some 3 ∧
    (talking (world 0)).mgmt.challenge = none ∧
    (∀ n ∈ [0, 1, 4000],
      let m := msg (leBytes 4 (0x1000000 - 4000) ++ zeros n)
      4 ≤ m.payload.length ∧ carries m (min 4004 m.payload.length) ∧ field m.payload 0 4 % 16 = 0 ∧
      field m.payload 0 4 + ((m.payload.drop 4).take 4000).length ≤ 0x1000000) ∧
    (∀ n ∈ [0, 15], carries (msg (leBytes 4 n ++ zeros 1616)) 1620 ∧ field (leBytes 4 n ++ zeros 1616) 0 4 = n) ∧
    (∀ k ∈ [0, 2 ^ 20 - 1], ∃ v, takeIdentity { s with mgmt := { s.mgmt with sigNext := k } } = .ok (k, v)) := by
  refine ⟨rfl, rfl, by decide, rfl, rfl, rfl, rfl, rfl, by decide +kernel, by decide +kernel, ?_⟩
  intro k hk
  simp only [List.mem_cons, List.not_mem_nil, or_false] at hk
  rcases hk with rfl | rfl <;> exact ⟨_, rfl⟩

/-- Tests of a quarter that no field has, and of stack memory that none holds; packs on a quarter without main fields. -/
theorem test_diag_hypotheses :
    let s := talking (stacked (packed 0))
    let m := msg ([0, 1] ++ zeros 22)
    carries m 24 ∧ field m.payload 2 6 = 0 ∧ addrSpare m.payload 8 = false ∧ field m.payload 0 1 = 0 ∧ field m.payload 1 1 = 1 ∧
    (quarterOf s 1).inService = true ∧ (∀ f, f < 16 → ∀ fd ∈ fieldOf s f, fd.quarters.contains 1 = false) ∧
    (∀ p ∈ [(0, 2684354560), (2684354304, 256)],
      let m := msg ([2, 0] ++ zeros 6 ++ leBytes 8 p.1 ++ leBytes 8 p.2)
      stackAddr m.payload 8 + field m.payload 16 8 ≤ stackTop s ∧ addrSpare m.payload 8 = false ∧
      (p.2 = 256 → runBusy s p.1 p.2 = false) ∧ (∀ f, f < 16 → ∀ fd ∈ fieldOf s f, fd.base + fd.size ≤ p.1 ∨ p.1 + p.2 ≤ fd.base)) ∧
    s.mgmt.service = .full ∧ mainOn s 1 = false ∧ s.mgmt.pack.isSome = true ∧ (talking (world 0)).mgmt.pack = none ∧
    (let m := msg (zeros 12 ++ [1, 1])
     carries m 14 ∧ addrSpare m.payload 0 = false ∧ field m.payload 12 1 = 1 ∧ field m.payload 13 1 = 1) ∧
    (let m := msg (zeros 12 ++ [2, 0])
     carries m 14 ∧ field m.payload 12 1 = 2 ∧ field m.payload 0 12 = 0) ∧
    realFailure s ⟨1, [⟨0, 0, [], zeros 32, zeros 16⟩]⟩ 1 ⟨600, 0, 5⟩ = true := by decide +kernel

theorem test_mctp_hypotheses : (world 0).mgmt.service ≠ .off ∧ processorRuns (world 0) 0 = true ∧ (1 : BitVec 8) ≠ 0 ∧ (0xFE : BitVec 8) ≠ 0xFF := by
  decide

/-- An image's header and section table: flags, target, sections (type, field, offset, length, count), and its CRC (02 R39 to R41). -/
def imageHead (flags target len crc : Nat) (secs : List (Nat × Nat × Nat × Nat × Nat)) : List Byte :=
  leBytes 128 (pack [(0, 0x52505552), (32, 1), (48, flags), (64, len), (96, secs.length), (160, 0xFFFFFFFF), (192, target), (256, 0x77), (384, crc)])
    ++ secs.flatMap fun x => leBytes 32 (pack [(0, x.1), (16, x.2.1), (32, x.2.2.1), (64, x.2.2.2.1), (96, x.2.2.2.2)])
/-- A full image of field 0: plot 0, context 0, bank 0, 1 GiB at 0, one template of one NOP (02 R42 to R52). -/
def fullImage (crc : Nat) : List Byte :=
  imageHead 0 0x10004 624 crc [(2, 0xFF, 320, 16, 1), (4, 0xFF, 336, 64, 1), (1, 0, 400, 32, 1), (3, 0, 432, 32, 1), (5, 0, 464, 80, 8), (7, 0, 544, 80, 1)]
    ++ leBytes 16 9
    ++ leBytes 64 (pack ((List.range 4).flatMap fun n => [(16 * n, 250), (64 * n + 64, 480), (64 * n + 80, 180), (64 * n + 96, 220), (64 * n + 112, 120)]))
    ++ leBytes 32 (pack [(24, 1), (32, 1), (96, 1)]) ++ leBytes 32 (pack [(64, 0x40000000)])
    ++ (List.range 8).flatMap (fun k => leBytes 8 (k + 256)) ++ leBytes 16 (pack [(16, 1)])
    ++ zeros 32 ++ leBytes 32 (pack [(16, 1), (32, 1)]) ++ zeros 16
/-- A removal image of field 0 (02 R63). -/
def removalImage (crc : Nat) : List Byte := imageHead 2 0x10004 256 crc [(1, 0, 224, 32, 1)] ++ zeros 64 ++ leBytes 32 0xFF0000
/-- Stack memory that holds bytes from address 0. -/
def storing (bs : List Byte) (fuses : Fuses := {}) : State :=
  let s := stacked (world 0)
  { s with mem := { s.mem with bytes := Bytes.writeRun s.mem.bytes 0 bs }, mgmt := { s.mgmt with fuses := fuses } }

theorem storing_reads {r : State} {bs : List Byte} {n : Nat} {k : Fuses} (hr : r = talking (storing bs k) ∨ r = shrinkLoft (talking (storing bs k)))
    (hn : bs.length = n) (h : n ≤ 2684354560) (hb : runBusy r 0 n = false) :
    ∃ v, firmwareRead r 0 n = (v, bs, .ok) ∧ v = (readRun r none false false 0 n).1 := by
  subst hn
  have ht : 0 + bs.length ≤ stackTop r := by
    rcases hr with rfl | rfl <;> (show 0 + bs.length ≤ 2684354560 * 1; omega)
  have hm : memorySound r := by rcases hr with rfl | rfl <;> rfl
  have hw : r.mem.bytes = Bytes.writeRun (stacked (world 0)).mem.bytes 0 bs := by rcases hr with rfl | rfl <;> rfl
  exact ⟨_, by rw [firmwareRead_sound hm ht hb, seeBytes_written hm hw ht], rfl⟩

/-- A fold whose number is computed at every step. -/
def foldForced {α : Type} (f : Nat → α → Nat) : List α → Nat → Nat
  | [], n => n
  | x :: xs, n =>
    match f n x with
    | 0 => foldForced f xs 0
    | k + 1 => foldForced f xs (k + 1)
theorem foldl_forced {α : Type} (f : Nat → α → Nat) (xs : List α) (n : Nat) : xs.foldl f n = foldForced f xs n := by
  induction xs generalizing n with
  | nil => rfl
  | cons x xs ih =>
    rw [List.foldl_cons, foldForced, ih]
    split <;> rename_i h <;> rw [h]

/-- Images: whose CRC is right, of a removal, and whose CRC is wrong. -/
theorem stage2_full : (Img.parse (fullImage 3095147462380104028)).stage2 = .ok := by
  unfold Img.stage2 crc crcFeed
  rw [foldl_forced]
  decide +kernel
theorem stage2_removal : (Img.parse (removalImage 14071810129141540115)).stage2 = .ok := by
  unfold Img.stage2 crc crcFeed
  rw [foldl_forced]
  decide +kernel
theorem stage2_bad : (Img.parse (fullImage 0)).stage2 = .image := by
  unfold Img.stage2 crc crcFeed
  rw [foldl_forced]
  decide +kernel

/-- An image of n bytes at address 0 that LOAD_IMAGE finds, with STANDING 1 or 0: what it is, and what it comes to beside its CRC. -/
abbrev loads (bs : List Byte) (n standing : Nat) (removal : Bool) : Prop :=
  let s := talking (storing bs)
  let m := msg (leBytes 8 0 ++ leBytes 4 n ++ [BitVec.ofNat 8 standing])
  let v := (readRun (shrinkLoft s) none false false 0 n).1
  let i := Img.parse bs
  bs.length = n ∧ carries m 13 ∧ addrSpare m.payload 0 = false ∧ field m.payload 12 1 = standing ∧ stackAddr m.payload 0 = 0 ∧
  field m.payload 8 4 = n ∧ loadOrder1 s 0 n = .ok ∧ runBusy (shrinkLoft s) 0 n = false ∧ i.removal = removal ∧
  i.partial_ = removal ∧ i.fieldList = [0] ∧ i.stage1 = .ok ∧ firstBad [i.stage3 v, i.stage4 v, i.stage5 v, i.stage6 v] = .ok ∧
  (standing == 1 && i.partial_) = false ∧ tapHolds v = false
theorem loads_full : loads (fullImage 3095147462380104028) 624 1 false := by decide +kernel
theorem loads_removal : loads (removalImage 14071810129141540115) 256 0 true := by decide +kernel
theorem loads_bad : loads (fullImage 0) 624 0 false := by decide +kernel

/-- LOAD_IMAGE of each of them: a full image taken as a standing image, a removal image, an image that is refused. -/
theorem test_load_hypotheses (bs : List Byte) (n k : Nat) (r : Bool) (h : loads bs n k r) (hn : n ≤ 2684354560) :
    reaches (talking (storing bs)) (talking (storing bs)) (msg (leBytes 8 0 ++ leBytes 4 n ++ [BitVec.ofNat 8 k])) ∧
    ∃ v, firmwareRead (shrinkLoft (talking (storing bs))) 0 n = (v, bs, .ok) ∧
      loadOrder3 v (Img.parse bs) (k == 1) = (Img.parse bs).stage2 := by
  refine ⟨talks _ _ ⟨nofun, nofun, rfl, rfl, rfl⟩, ?_⟩
  obtain ⟨hl, -, -, -, -, -, -, hb, -, -, -, h1, h2, h3, h4⟩ := h
  obtain ⟨v, hv, rfl⟩ := storing_reads (.inr rfl) hl hn hb
  refine ⟨_, hv, ?_⟩
  have hval : (Img.parse bs).validate (readRun (shrinkLoft (talking (storing bs))) none false false 0 n).1 = (Img.parse bs).stage2 := by
    unfold Img.validate
    rw [if_neg (by rw [h1]; exact fun h => h rfl), h2]
    split
    · rfl
    next h => exact (Classical.not_not.mp h).symm
  unfold loadOrder3
  rw [hval, h3, h4]
  split
  · rfl
  next h => exact (Classical.not_not.mp h).symm

/-- An enrolment record for this part, with no key enrolled; a bundle's read. -/
theorem test_enroll_hypotheses :
    let bs := leBytes 4 0x4B505552 ++ leBytes 8 1 ++ zeros 60
    let s := talking (storing bs)
    let m := msg (leBytes 8 0 ++ leBytes 4 72)
    carries m 12 ∧ addrSpare m.payload 0 = false ∧ stackAddr m.payload 0 = 0 ∧ field m.payload 8 4 = 72 ∧ field m.payload 8 4 ≤ 0x1000000 ∧
    bs.length = 72 ∧ runBusy s 0 72 = false ∧ field bs 0 4 = 0x4B505552 ∧ field bs 4 8 = s.mgmt.fuses.serial.toNat ∧ s.mgmt.imageKey = none := by
  decide +kernel


/-! ### The weighbridge and the test ports -/

/-- A weighbridge that measures, with a record, an audit entry and a nonce, or with a stored body. -/
def weighing (n : Nat) : State :=
  let s := talking (world 0)
  { s with wb := { closed := if n = 0 then none else some (zeros 224), records := [⟨3, [1], [2]⟩], audits := [⟨4, [1], [2]⟩], challenge := some 0
                   nextNumber := 4, sigNext := n - 1 } }

theorem test_weighbridge_hypotheses :
    (let s := weighing 0
     s.power.pwrgood = true ∧ s.power.pllLocked = true ∧ s.wb.closed = none ∧ s.wb.restarting = false) ∧
    (∀ n ∈ [1, 2 ^ 20], let s := weighing n
     s.wb.closed = some (zeros 224) ∧ (zeros 224).length = 224 ∧ s.wb.sigNext < 2 ^ 20 ∧ s.wb.records.length < 3072) := by decide +kernel

theorem test_weighbridge_message_hypotheses :
    let s := weighing 0
    (∀ p ∈ [(0, 3), (0, 2), (1, 0), (2, 7), (3, 4), (3, 3), (4, 0)],
      let m := msg ([BitVec.ofNat 8 p.1] ++ zeros 7 ++ leBytes 8 p.2)
      carries m 16 ∧ field m.payload 1 7 = 0 ∧ field m.payload 0 1 = p.1 ∧ field m.payload 8 8 = p.2) ∧
    s.wb.records.find? (fun x => x.number == 3) = some ⟨3, [1], [2]⟩ ∧ s.wb.records.find? (fun x => x.number == 2) = none ∧
    s.wb.audits.find? (fun x => x.counter == 4) = some ⟨4, [1], [2]⟩ ∧ s.wb.audits.find? (fun x => x.counter == 3) = none ∧
    (∀ u ∈ [2 ^ 63 - 1, 2 ^ 63], carries (msg (leBytes 8 u)) 8 ∧ field (leBytes 8 u) 0 8 = u) ∧
    (∀ p ∈ [(0x3999999A, 0xFFFFF000), (0x46666666, 4095)], ∀ l ∈ [16, 1664],
      let m := msg ([7] ++ zeros 3 ++ leBytes 4 p.1 ++ leBytes 4 p.2 ++ zeros (l - 12))
      carries m (if 1664 ≤ m.payload.length then 1664 else 16) ∧ field m.payload 1 3 = 0 ∧ field m.payload 12 4 = 0 ∧
      field m.payload 0 1 ≤ 7 ∧ 0x3999999A ≤ field m.payload 4 4 ∧ field m.payload 4 4 ≤ 0x46666666 ∧
      -4096 ≤ toSigned 32 (field m.payload 8 4) ∧ toSigned 32 (field m.payload 8 4) ≤ 4095 ∧ s.wb.sigNext < 2 ^ 20 ∧
      s.wb.audits.length < 1024 ∧ (m.payload.length < 1664 ∧ s.mgmt.fuses.legal = false ∨
        (1664 ≤ m.payload.length ∧ digestBytes 0 = slice m.payload 16 32 ∧ s.wb.challenge = some 0))) := by decide +kernel

/-- A die whose scope is open with no field loaded, with one, and with its scope closed. -/
theorem test_tap_hypotheses :
    ∀ p ∈ [(({ service := .full, scopes := 15 } : Mgmt), false), ({ service := .full, scopes := 15 }, true), ({ service := .full }, false)],
      let s : State := { world 0 with mgmt := p.1, fields := if p.2 then (world 0).fields else {} }
      s.power.pwrgood = true ∧
      (Instr.extest 0, 0x03, p.1.scopes == 15, !p.2) ∈ tapRows s 0 ∧ (Instr.bypass 7, 0xFF, true, true) ∈ tapRows s 7 ∧
      (Instr.stack1500 0, 0x20, p.1.scopes == 15, !p.2) ∈ tapRows s 0 := by decide +kernel

/-- A queue with a command in front; reset's memory. -/
theorem test_step_takes_front : { State.reset with pending := [.tapReset] }.pending = [.tapReset] ∧ memoryCanonical State.reset := by decide

/-- Each of the six formats, and a magnitude that one of their codes has. -/
theorem test_nearest_hypotheses :
    ∀ f ∈ [fp32, bf16, fp16, e4m3, e5m2, fp4], f.roundMag .nearest 3 2 0 ≤ f.maxc ∧ f.roundMag .nearest 5 4 0 ≤ f.maxc := by decide +kernel

/-! ### The specification's worked values -/

/-- 04 R130. -/
theorem test_srbits :
    srbits 0 0 0 0 = 0x16E68321 ∧ srbits 1 2 3 4 = 0x4383F6C3 ∧ srbits 0x80000000 0xFFFFFFFF 0x10 0x100000000 = 0x47F6F102 := by decide +kernel

/-- 07 R197. -/
theorem test_functions :
    funcEval .exp2 0 = 0x3F800000 ∧ funcEval .exp2 0xBF800000 = 0x3F000000 ∧ funcEval .exp2 0xC3150000 = 1 ∧ funcEval .exp2 0x43000000 = 0x7F800000 ∧
    funcEval .log2 0x41000000 = 0x40400000 ∧ funcEval .log2 0xBF800000 = 0x7FC00000 ∧ funcEval .recip 0xBF000000 = 0xC0000000 ∧
    funcEval .recip 0 = 0x7F800000 ∧ funcEval .rsqrt 0x41800000 = 0x3E800000 ∧ funcEval .rsqrt 0x40000000 = 0x3F3504F3 ∧ funcEval .sigmoid 0 = 0x3F000000 ∧
    funcEval .tanh 0x80000000 = 0x80000000 ∧ funcEval .erf 0x40A00000 = 0x3F800000 := by decide +kernel

/-- 08 R212. -/
theorem test_row_hash :
    rowHash 0 0 = 0 ∧ rowHash 0x12345678 5 = 0x123D48D9 ∧ rowHash 0xFFFFFFFF 0x9FFFFF = 0xFF1F8FC7 := by decide +kernel
theorem test_placement :
    let s : State := { mem := { live := List.range 512 }, fields := { seed := 0x12345678 } }
    let s' : State := { mem := { live := (List.range 512).filter fun c => c != 3 && c != 200 && c != 411 }, fields := { seed := 0x12345678 } }
    placement s 2560 = (217, 5) ∧ placement s 2860 = (5, 5) ∧ placement s' 2560 = (30, 5) := by decide +kernel

/-- 09 R238. -/
theorem test_ecc :
    eccEncode 1 = 0x5203 ∧ eccEncode (0xF * 2 ^ 124) = 0xD2A7 ∧ syndrome 0x400001 0x5203 = 0xD874 ∧ eccDecide 0xD874 = .data 5 4 ∧
    syndrome (0xF * 2 ^ 124) 0xC2A7 = 0x1000 ∧ eccDecide 0x1000 = .check 3 1 ∧ syndrome 0x400000 0x5203 = 0xBA75 ∧
    eccDecide 0xBA75 = .uncorrectable ∧ syndrome 1 (0x5203 ^^^ 0xFFFF) = 0x1FFF ∧ eccDecide 0x1FFF = .uncorrectable := by decide +kernel

/-- 09 R254. -/
theorem test_crc :
    let nine := leBytes 9 0x393837363534333231
    crc ⟨8, 7, 0, false, false, 0⟩ nine = 0xF4 ∧ crc crc16 nine = 0x29B1 ∧ crc crc32c nine = 0xE3069283 := by decide +kernel

/-- 14 R389: the ring's record of 3,072 and the next one. -/
theorem test_signature_ring :
    let s : State := { mgmt := { sigEnd := 3072, sigNext := 3072 } }
    (takeIdentity s).toOption.map (fun p => (p.1, p.2.mgmt.sigNext, p.2.mgmt.sigEnd)) = some (3072, 3073, 4096) := by decide +kernel

/-- 15 R410: a second permanent outcome takes tile 1,471 to level 2 and its die to 10 mV. -/
theorem test_level_two :
    let s := raiseLevel { tiles := { level := [(1471, 1)] } } 1471 1
    levelOf s 1471 = 2 ∧ (quarterOf s 2).offset = 10 := by decide +kernel
/-! ### Signatures that verify -/

theorem shaBytes_length (m : List Byte) : (shaBytes m).length = 32 := rfl

theorem lmsUp_length (id : List Byte) (path : List (List Byte)) (n : Nat × List Byte) (h : n.2.length = 32) :
    (path.foldl (lmsUp id) n).2.length = 32 := by
  induction path generalizing n with
  | nil => exact h
  | cons x xs ih => exact ih _ (shaBytes_length _)

/-- An HSS public key of one level, height 15 and w = 8 with a root; a signature of zeros for it. -/
def keyOf (root : List Byte) : List Byte := [0, 0, 0, 1, 0, 0, 0, 7, 0, 0, 0, 4] ++ zeros 16 ++ root
def lmsZero : List Byte := zeros 4 ++ [0, 0, 0, 4] ++ zeros 1120 ++ [0, 0, 0, 7] ++ zeros 480
def sigZero : List Byte := zeros 4 ++ lmsZero
/-- The key under which that signature is one of a message (RFC 8554). -/
def keyFor (msg : List Byte) : List Byte := keyOf (lmsRoot (zeros 16) 15 otsW8 msg lmsZero)

theorem keyFor_length (msg : List Byte) : (keyFor msg).length = 60 := by
  have h : (lmsRoot (zeros 16) 15 otsW8 msg lmsZero).length = 32 := lmsUp_length _ _ _ (shaBytes_length _)
  unfold keyFor keyOf
  rw [List.length_append, h]
  rfl

theorem key_verifies (set : HssSet) (msg : List Byte) : hssOk set (keyFor msg) msg sigZero = true := by
  have hr : (lmsRoot (zeros 16) 15 otsW8 msg lmsZero).length = 32 := lmsUp_length _ _ _ (shaBytes_length _)
  have hv : lmsVerify ((keyFor msg).drop 4) msg lmsZero = true := by
    have h56 : ((keyFor msg).drop 4).length = 56 := by rw [List.length_drop, keyFor_length]
    have hid : (((keyFor msg).drop 4).drop 8).take 16 = zeros 16 := rfl
    have hroot : (((keyFor msg).drop 4).drop 24).take 32 = lmsRoot (zeros 16) 15 otsW8 msg lmsZero :=
      List.take_of_length_le (Nat.le_of_eq hr)
    have ht : lmsHeight (lmsType ((keyFor msg).drop 4)) = some 15 := rfl
    have ho : otsOf (lmsOts ((keyFor msg).drop 4)) = some otsW8 := rfl
    have ht7 : lmsType ((keyFor msg).drop 4) = 7 := rfl
    unfold lmsVerify
    rw [ht, ho]
    dsimp only
    rw [h56, hid, hroot, ht7, Bool.and_eq_true]
    exact ⟨by decide +kernel, beq_self_eq_true _⟩
  have ha : set.rule.allows ((keyFor msg).drop 4) = true := by cases set <;> rfl
  have hl : beNat ((keyFor msg).take 4) = 1 := rfl
  have hd : sigZero.drop 4 = lmsZero := rfl
  unfold hssOk hssVerify
  rw [hl, keyFor_length, hd]
  have h0 : hssLevels set.rule msg (1 - 1) ((keyFor msg).drop 4) lmsZero = true := by
    show (set.rule.allows ((keyFor msg).drop 4) && lmsVerify ((keyFor msg).drop 4) msg lmsZero) = true
    rw [ha, hv]
    rfl
  show (60 == 60 && decide (1 ≤ 1) && decide (1 ≤ set.rule.levels) && beNat (sigZero.take 4) == 1 - 1
    && hssLevels set.rule msg (1 - 1) ((keyFor msg).drop 4) lmsZero) = true
  rw [h0, Bool.and_true]
  cases set <;> decide +kernel
/-- ENROLL_IMAGE_KEY over an enrolled key, the record signed by it and not signed. -/
theorem test_enroll_signed :
    let bs := leBytes 4 0x4B505552 ++ leBytes 8 1 ++ zeros 60
    hssOk .image (keyFor bs) ((bs ++ sigZero).take 72) ((bs ++ sigZero).drop 72) = true ∧
    hssOk .image [] ((bs ++ sigZero).take 72) ((bs ++ sigZero).drop 72) = false :=
  ⟨key_verifies .image _, by decide +kernel⟩

/-- TEST_UNLOCK of scopes 5 with a token that verifies and with one that does not. -/
theorem test_unlock_hypotheses :
    let m := msg (leBytes 4 5 ++ sigZero)
    let s := fun (key : List Byte) =>
      talking { world 0 with mgmt := { (world 0).mgmt with challenge := some 3, fuses := { keys := [(testKey, some key)] } } }
    let key := keyFor (testMessage (s []) 3 5)
    (∀ k, reaches (s k) (s k) m ∧ (s k).mgmt.challenge = some 3) ∧ carries m 1620 ∧ field m.payload 0 4 = 5 ∧
    hssOk .test (horxaKey (s key) testKey) (testMessage (s key) 3 5) (slice m.payload 4 1616) = true ∧
    hssOk .test (horxaKey (s []) testKey) (testMessage (s []) 3 5) (slice m.payload 4 1616) = false := by
  have hs : slice (msg (leBytes 4 5 ++ sigZero)).payload 4 1616 = sigZero := by decide +kernel
  refine ⟨fun k => ⟨talks _ _ ⟨nofun, nofun, rfl, rfl, rfl⟩, rfl⟩, by decide +kernel, by decide +kernel, ?_, by decide +kernel⟩
  rw [hs]
  exact key_verifies .test _

/-- A pack of one item with one step, one slot and no data, its signature under Horxa's pattern key; and 64 zeros. -/
def packBody : List Byte :=
  leBytes 64 (pack [(0, 0x50505154), (32, 1), (48, 1), (64, 176), (96, 1), (128, 0x10000), (192, 1616)])
    ++ leBytes 64 (pack [(0, 112), (32, 1), (40, 1), (64, 5)]) ++ zeros 48

theorem test_pack_hypotheses :
    let s := talking (storing (packBody ++ sigZero) { keys := [(patternKey, some (keyFor packBody))] })
    let m := msg (leBytes 8 0 ++ leBytes 4 1792 ++ [0, 0])
    reaches s s m ∧ carries m 14 ∧ s.mgmt.service = .full ∧ addrSpare m.payload 0 = false ∧ field m.payload 12 1 = 0 ∧
    stackAddr m.payload 0 = 0 ∧ field m.payload 8 4 = 1792 ∧
    ∃ v, firmwareRead s 0 1792 = (v, packBody ++ sigZero, .ok) ∧ packStatus v (packBody ++ sigZero) = .ok ∧
      packStatus v (zeros 64) ≠ .ok := by
  refine ⟨talks _ _ ⟨nofun, nofun, rfl, rfl, rfl⟩, by decide +kernel, rfl, by decide +kernel, by decide +kernel, by decide +kernel,
    by decide +kernel, ?_⟩
  obtain ⟨v, hv, he⟩ := storing_reads (k := { keys := [(patternKey, some (keyFor packBody))] }) (bs := packBody ++ sigZero) (.inl rfl)
    (n := 1792) (by decide +kernel) (by decide) (by decide +kernel)
  refine ⟨v, hv, ?_, ?_⟩
  · obtain ⟨-, x, y, h⟩ := readRun_sound (s := talking (storing (packBody ++ sigZero) { keys := [(patternKey, some (keyFor packBody))] }))
      rfl none false false 0 1792
    have hl : packLayout (packBody ++ sigZero) = .ok := by decide +kernel
    have ht : (packBody ++ sigZero).take (packLength (packBody ++ sigZero)) = packBody := by decide +kernel
    have hd : (packBody ++ sigZero).drop (packLength (packBody ++ sigZero)) = sigZero := by decide +kernel
    rw [he, h]
    unfold packStatus
    rw [hl, ht, hd]
    have hk : hssOk .pack (horxaKey (withTraffic (talking (storing (packBody ++ sigZero)
      { keys := [(patternKey, some (keyFor packBody))] })) x y) patternKey) packBody sigZero = true := key_verifies .pack packBody
    have hc : packCapability (withTraffic (talking (storing (packBody ++ sigZero)
      { keys := [(patternKey, some (keyFor packBody))] })) x y) (packBody ++ sigZero) = true := by
      unfold packCapability
      dsimp only [withTraffic, talking, storing, stacked]
      decide +kernel
    rw [hk, hc]
    rfl
  · unfold packStatus
    have hl : packLayout (zeros 64) = .image := by decide +kernel
    rw [hl]
    exact nofun

/-- A bundle with its key, its signature and no body, whose key has the digest in the fuses; and one that has no key. -/
def bundleBytes : List Byte := keyFor (shaBytes []) ++ sigZero

theorem test_update_hypotheses :
    let s := talking (storing bundleBytes { rootKey := sha256 (keyFor (shaBytes [])) })
    let m := msg (leBytes 8 0 ++ leBytes 4 1676)
    reaches s s m ∧ carries m 12 ∧ addrSpare m.payload 0 = false ∧ stackAddr m.payload 0 = 0 ∧ field m.payload 8 4 = 1676 ∧
    ∃ v, firmwareRead s 0 1676 = (v, bundleBytes, .ok) ∧ bundleAuthentic v bundleBytes = true ∧
      s.mgmt.fuses.security ≤ Config.bundleSecurity bundleBytes ∧ bundleAuthentic v [] = false := by
  have hlen : bundleBytes.length = 1676 := by
    unfold bundleBytes
    rw [List.length_append, keyFor_length]
    decide +kernel
  refine ⟨talks _ _ ⟨nofun, nofun, rfl, rfl, rfl⟩, by decide +kernel, by decide +kernel, by decide +kernel, by decide +kernel, ?_⟩
  obtain ⟨v, hv, he⟩ := storing_reads (k := { rootKey := sha256 (keyFor (shaBytes [])) }) (bs := bundleBytes) (.inl rfl) hlen
    (by decide) (by decide +kernel)
  obtain ⟨-, x, y, h⟩ := readRun_sound (s := talking (storing bundleBytes { rootKey := sha256 (keyFor (shaBytes [])) }))
    rfl none false false 0 1676
  have hkey : bundleKey bundleBytes = keyFor (shaBytes []) := List.take_left' (keyFor_length _)
  have hdrop : bundleBytes.drop 60 = sigZero := List.drop_left' (keyFor_length _)
  have hn : hssLength (keyFor (shaBytes [])) sigZero = 1616 := rfl
  have hsig : bundleSignature bundleBytes = sigZero := by
    unfold bundleSignature
    rw [hkey, hdrop, hn]
    decide +kernel
  have hbody : bundleBody bundleBytes = [] := by
    unfold bundleBody
    rw [hkey, hdrop, hn]
    decide +kernel
  refine ⟨v, hv, ?_, Nat.zero_le _, ?_⟩
  · rw [he, h]
    unfold bundleAuthentic
    rw [hkey, hsig, hbody, key_verifies .bundle]
    simp [withTraffic, talking, storing]
  · unfold bundleAuthentic
    rw [show hssOk .bundle (bundleKey []) (shaBytes (bundleBody [])) (bundleSignature []) = false by decide +kernel, Bool.and_false]

/-- SHA-256 of "abc" (FIPS 180-4). -/
theorem test_sha256 : beNat (shaBytes [0x61, 0x62, 0x63]) = 0xBA7816BF8F01CFEA414140DE5DAE2223B00361A396177A9CB410FF61F20015AD := by
  decide +kernel

/-- GET_CERT while a load waits for a controller. -/
theorem test_long_hypotheses :
    let s := talking { world 0 with mgmt := { (world 0).mgmt with parked := [.loadImage (msg []) none] } }
    let q := getCertRequest (msg [])
    q.spare = false ∧ carries q.mail q.need ∧ longTypes.contains q.type = true ∧ s.mgmt.parked.any isLong = true ∧
    sessionOf s q.mail.src = some { src := .mctp 8, minor := 0 } := by decide +kernel

/-- SET_CAP while quarter 0's controller restarts waits in its session. -/
theorem test_parked_hypotheses :
    let s := talking { world 0 with mgmt := { (world 0).mgmt with restarting := [(1, true)] } }
    let m := msg (leBytes 2 2000)
    hears s s m ∧ sessionOf s m.src = some { src := .mctp 8, minor := 0 } ∧ (setCapRequest m).check s = .ok ∧
    (∃ p ∈ (setCapRequest m).needs s, processorRuns s p = false) :=
  ⟨⟨nofun, nofun, rfl, by decide +kernel⟩, rfl, by decide +kernel, 1, by decide +kernel, rfl⟩


end Sys2Proof.Tests
end

section
/-! The check value of CRC-64/XZ (02 R38), in the two stages of the procedure of 09 R251: the register after the bytes are fed, then
the result of that register. -/
namespace Sys2Proof.Machine

/-- The nine ASCII bytes "123456789", over which 02 R38 states the check value. -/
def checkValueBytes : List Byte := [0x31, 0x32, 0x33, 0x34, 0x35, 0x36, 0x37, 0x38, 0x39]

theorem crcFeed_crc64xz_checkValueBytes : crcFeed crc64xz crc64xz.init checkValueBytes = 0xA0636704226C4566 := by
  decide +kernel

/-- The register's 64 bits in reverse order, then each bit inverted by the final XOR. -/
theorem crcResult_crc64xz_checkValueRegister : crcResult crc64xz 0xA0636704226C4566 = 0x995DC9BBDF1939FA := by
  decide +kernel

theorem crc_crc64xz_checkValueBytes : crc crc64xz checkValueBytes = 0x995DC9BBDF1939FA := by
  rw [crc, crcFeed_crc64xz_checkValueBytes, crcResult_crc64xz_checkValueRegister]

/-- Settles O59: the parameters are those of the definition, and the check value is the result of the register that the nine bytes
leave. -/
theorem crc64GivesItsCheckValue : Obligations.Crc64GivesItsCheckValue := by
  unfold Obligations.Crc64GivesItsCheckValue
  constructor
  · rfl
  · exact crc_crc64xz_checkValueBytes

end Sys2Proof.Machine
end

section
/-! Rounding to nearest, ties to even (04 R125). A magnitude that lies in the range of one spacing 2^(minExp + t) is rounded there to an
integer k, and its code is t · 2^fb + k; the codes' values are the multiples of that spacing, and values below its range, which are
further away than the range's lower end. So the code taken is the nearest because k is the nearest integer. -/
namespace Sys2Proof.Machine

/-! ### The nearest integer -/

/-- k is at most 1/2 from z, and even where the distance is 1/2. -/
structure NearestEven (z : Rat) (k : Nat) : Prop where
  upper : 2 * z ≤ 2 * k + 1
  lower : 2 * (k : Rat) ≤ 2 * z + 1
  even : 2 * z = 2 * k + 1 ∨ 2 * (k : Rat) = 2 * z + 1 → k % 2 = 0

theorem roundQuot_nearest_eq (n d : Nat) :
    roundQuot .nearest n d = if d < 2 * (n % d) ∨ 2 * (n % d) = d ∧ n / d % 2 = 1 then n / d + 1 else n / d := by
  simp only [roundQuot, roundsUp, Bool.or_eq_true, Bool.and_eq_true, decide_eq_true_eq, beq_iff_eq]

theorem roundQuot_nearest_bounds (n d : Nat) (hd : 0 < d) :
    2 * n ≤ 2 * roundQuot .nearest n d * d + d ∧ 2 * roundQuot .nearest n d * d ≤ 2 * n + d ∧
    (2 * n = 2 * roundQuot .nearest n d * d + d ∨ 2 * roundQuot .nearest n d * d = 2 * n + d → roundQuot .nearest n d % 2 = 0) := by
  have hdiv := Nat.div_add_mod n d
  have hmod := Nat.mod_lt n hd
  rw [roundQuot_nearest_eq]
  by_cases hup : d < 2 * (n % d) ∨ 2 * (n % d) = d ∧ n / d % 2 = 1
  · have hmul : 2 * (n / d + 1) * d = 2 * (d * (n / d)) + 2 * d := by grind
    rw [if_pos hup, hmul]
    omega
  · have hmul : 2 * (n / d) * d = 2 * (d * (n / d)) := by grind
    rw [if_neg hup, hmul]
    omega

theorem roundQuot_nearest_mul (j d : Nat) (hd : 0 < d) : roundQuot .nearest (j * d) d = j := by
  have hmod : ¬ (d < 2 * (j * d % d) ∨ 2 * (j * d % d) = d ∧ j * d / d % 2 = 1) := by rw [Nat.mul_mod_left]; omega
  rw [roundQuot_nearest_eq, if_neg hmod, Nat.mul_div_cancel j hd]

theorem nearestEven_roundQuot (n d : Nat) (hd : 0 < d) : NearestEven ((n : Rat) / d) (roundQuot .nearest n d) := by
  obtain ⟨hupper, hlower, heven⟩ := roundQuot_nearest_bounds n d hd
  generalize roundQuot .nearest n d = k at *
  have hd' : (0 : Rat) < d := by exact_mod_cast hd
  have hquot : (n : Rat) / d * d = n := Rat.div_mul_cancel (Rat.ne_of_gt hd')
  generalize (n : Rat) / d = z at *
  have hupper' : 2 * (n : Rat) ≤ 2 * k * d + d := by exact_mod_cast hupper
  have hlower' : 2 * (k : Rat) * d ≤ 2 * n + d := by exact_mod_cast hlower
  refine ⟨Rat.le_of_mul_le_mul_right ?_ hd', Rat.le_of_mul_le_mul_right ?_ hd', fun htie => heven ?_⟩
  · grind
  · grind
  · rcases htie with htie | htie
    · have : 2 * (n : Rat) = 2 * k * d + d := by grind
      exact .inl (by exact_mod_cast this)
    · have : 2 * (k : Rat) * d = 2 * n + d := by grind
      exact .inr (by exact_mod_cast this)

theorem nearestEven_zero {z : Rat} (h0 : 0 ≤ z) (h1 : 2 * z ≤ 1) : NearestEven z 0 where
  upper := by grind
  lower := by grind
  even _ := rfl

/-- Another integer is at least 1 from k, so at least 1/2 from z. -/
theorem NearestEven.int_not_nearer {z : Rat} {k m : Nat} (hk : NearestEven z k) (hne : m ≠ k) :
    apartBy z k ≤ apartBy z m ∧ (apartBy z k = apartBy z m → k % 2 = 0) := by
  obtain ⟨hupper, hlower, heven⟩ := hk
  have hone : (m : Rat) + 1 ≤ k ∨ (k : Rat) + 1 ≤ m := by
    rcases Nat.lt_or_gt_of_ne hne with h | h
    · exact .inl (by exact_mod_cast h)
    · exact .inr (by exact_mod_cast h)
  constructor
  · grind [apartBy]
  · intro heq
    apply heven
    grind [apartBy]

theorem NearestEven.le_of_le {z : Rat} {k b : Nat} (hk : NearestEven z k) (hb : (b : Rat) ≤ z) : b ≤ k := by
  have hlt : (b : Rat) < k + 1 := by grind [hk.upper]
  exact Nat.lt_succ_iff.mp (by exact_mod_cast hlt)

theorem NearestEven.le_of_lt {z : Rat} {k b : Nat} (hk : NearestEven z k) (hb : z < b) : k ≤ b := by
  have hlt : (k : Rat) < b + 1 := by grind [hk.lower]
  exact Nat.lt_succ_iff.mp (by exact_mod_cast hlt)

/-- A value below an integer that is at most z is further from z than that integer, so further than k. -/
theorem NearestEven.nearer_than_below {z y : Rat} {k b : Nat} (hk : NearestEven z k) (hy : y < b) (hb : (b : Rat) ≤ z) :
    apartBy z k < apartBy z y := by
  have hkb : apartBy z k ≤ apartBy z b := by
    by_cases hbk : b = k
    · subst hbk; exact Rat.le_refl
    · exact (hk.int_not_nearer hbk).1
  have hby : apartBy z b < apartBy z y := by grind [apartBy]
  grind

/-! ### Distances -/

theorem apartBy_mul {u : Rat} (hu : 0 < u) (x y : Rat) : apartBy (x * u) (y * u) = apartBy x y * u := by
  by_cases h : x ≤ y
  · have hle : x * u ≤ y * u := Rat.mul_le_mul_of_nonneg_right h (Rat.le_of_lt hu)
    rw [apartBy, apartBy, if_pos h, if_pos hle]
    grind
  · have hlt : ¬ x * u ≤ y * u := fun hle => h (Rat.le_of_mul_le_mul_right hle hu)
    rw [apartBy, apartBy, if_neg h, if_neg hlt]
    grind

theorem apartBy_self (x : Rat) : apartBy x x = 0 := by grind [apartBy]

theorem eq_of_apartBy_nonpos {x y : Rat} (h : apartBy x y ≤ 0) : x = y := by grind [apartBy]

/-! ### Powers of two -/

theorem two_zpow_pos (a : Int) : (0 : Rat) < 2 ^ a := Rat.zpow_pos (by decide)

theorem two_zpow_add (a b : Int) : (2 : Rat) ^ (a + b) = 2 ^ a * 2 ^ b := Rat.zpow_add (by decide) a b

theorem two_zpow_natCast (i : Nat) : (2 : Rat) ^ (i : Int) = ((2 ^ i : Nat) : Rat) :=
  (Rat.zpow_natCast 2 i).trans (Rat.natCast_pow 2 i).symm

theorem two_zpow_le {a b : Int} (h : a ≤ b) : (2 : Rat) ^ a ≤ 2 ^ b := by
  obtain ⟨i, rfl⟩ := Int.le.dest h
  have hone : (1 : Rat) ≤ ((2 ^ i : Nat) : Rat) := by exact_mod_cast Nat.two_pow_pos i
  have hmul := Rat.mul_le_mul_of_nonneg_left hone (Rat.le_of_lt (two_zpow_pos a))
  rwa [Rat.mul_one, ← two_zpow_natCast, ← two_zpow_add] at hmul

/-! ### Shifts and the binary logarithm -/

theorem cast_shiftLeft_toNat (n : Nat) {s : Int} (hs : 0 ≤ s) : ((n <<< s.toNat : Nat) : Rat) = n * 2 ^ s := by
  obtain ⟨i, rfl⟩ := Int.eq_ofNat_of_zero_le hs
  rw [Int.toNat_natCast, Nat.shiftLeft_eq, Rat.natCast_mul, two_zpow_natCast]

/-- The quotient that roundMag rounds is n / d · 2^s, by a shift of n or of d. -/
theorem nearestEven_roundQuot_shift (n d : Nat) (hd : 0 < d) (s : Int) :
    NearestEven ((n : Rat) / d * 2 ^ s)
      (if s ≥ 0 then roundQuot .nearest (n <<< s.toNat) d else roundQuot .nearest n (d <<< (-s).toNat)) := by
  by_cases hs : s ≥ 0
  · have h := nearestEven_roundQuot (n <<< s.toNat) d hd
    have hquot : (n : Rat) * 2 ^ s / d = n / d * 2 ^ s := by grind
    rw [cast_shiftLeft_toNat n hs, hquot] at h
    rwa [if_pos hs]
  · have hpos : 0 < d <<< (-s).toNat := by rw [Nat.shiftLeft_eq]; exact Nat.mul_pos hd (Nat.two_pow_pos _)
    have h := nearestEven_roundQuot n (d <<< (-s).toNat) hpos
    have hquot : (n : Rat) / (d * 2 ^ (-s)) = n / d * 2 ^ s := by
      rw [Rat.zpow_neg, Rat.div_def, Rat.inv_mul_rev, Rat.inv_inv, Rat.div_def]
      grind
    rw [cast_shiftLeft_toNat d (by omega), hquot] at h
    rwa [if_neg hs]

theorem log2Quot_eq (n d : Nat) :
    log2Quot n d = if (n : Rat) < d * 2 ^ ((n.log2 : Int) - d.log2) then (n.log2 : Int) - d.log2 - 1 else (n.log2 : Int) - d.log2 := by
  unfold log2Quot
  generalize (n.log2 : Int) - d.log2 = l
  dsimp only
  by_cases hl : l ≥ 0
  · have hiff : (n < d <<< l.toNat) = ((n : Rat) < d * 2 ^ l) := by
      rw [← cast_shiftLeft_toNat d hl, Rat.natCast_lt_natCast]
    simp only [if_pos hl, hiff]
  · have hcancel : (2 : Rat) ^ (-l) * 2 ^ l = 1 := by rw [← two_zpow_add, Int.add_left_neg, Rat.zpow_zero]
    have hiff : (n <<< (-l).toNat < d) = ((n : Rat) < d * 2 ^ l) := by
      rw [← Rat.natCast_lt_natCast, cast_shiftLeft_toNat n (by omega), ← Rat.mul_lt_mul_right (two_zpow_pos l), Rat.mul_assoc, hcancel,
        Rat.mul_one]
    simp only [if_neg hl, hiff]

theorem cast_log2_bounds {n : Nat} (hn : 0 < n) : (2 : Rat) ^ (n.log2 : Int) ≤ n ∧ (n : Rat) < 2 ^ ((n.log2 : Int) + 1) := by
  constructor
  · rw [two_zpow_natCast, Rat.natCast_le_natCast]
    exact Nat.log2_self_le (Nat.ne_of_gt hn)
  · rw [show (n.log2 : Int) + 1 = (n.log2 + 1 : Nat) from rfl, two_zpow_natCast, Rat.natCast_lt_natCast]
    exact Nat.lt_log2_self

theorem log2Quot_bounds {n d : Nat} (hn : 0 < n) (hd : 0 < d) :
    (2 : Rat) ^ log2Quot n d ≤ (n : Rat) / d ∧ (n : Rat) / d < 2 ^ (log2Quot n d + 1) := by
  obtain ⟨hnlo, hnhi⟩ := cast_log2_bounds hn
  obtain ⟨hdlo, hdhi⟩ := cast_log2_bounds hd
  have hd' : (0 : Rat) < d := by exact_mod_cast hd
  rw [← Rat.not_lt, Rat.div_lt_iff hd', Rat.not_lt, Rat.div_lt_iff hd', log2Quot_eq]
  generalize (n.log2 : Int) = a at *
  generalize (d.log2 : Int) = b at *
  by_cases h : (n : Rat) < d * 2 ^ (a - b)
  · rw [if_pos h, Int.sub_add_cancel]
    have hmul := Rat.mul_le_mul_of_nonneg_left (Rat.le_of_lt hdhi) (Rat.le_of_lt (two_zpow_pos (a - b - 1)))
    rw [← two_zpow_add, show a - b - 1 + (b + 1) = a by omega] at hmul
    exact ⟨Rat.le_trans hmul hnlo, by rwa [Rat.mul_comm]⟩
  · rw [if_neg h]
    have hmul := Rat.mul_le_mul_of_nonneg_left hdlo (Rat.le_of_lt (two_zpow_pos (a - b + 1)))
    rw [← two_zpow_add, show a - b + 1 + b = a + 1 by omega] at hmul
    exact ⟨by rwa [Rat.mul_comm, ← Rat.not_lt], by grind⟩

/-! ### The values of the codes -/

/-- The exponent of a format's subnormal spacing (04 R113). -/
def FloatFmt.minExp (f : FloatFmt) : Int := 1 - (f.bias : Int) - f.fb

/-- The spacing of the values with exponent field t + 1. -/
def FloatFmt.spacing (f : FloatFmt) (t : Nat) : Rat := 2 ^ (f.minExp + t)

theorem FloatFmt.spacing_pos (f : FloatFmt) (t : Nat) : 0 < f.spacing t := two_zpow_pos _

theorem FloatFmt.spacing_add (f : FloatFmt) (t i : Nat) : f.spacing (t + i) = ((2 ^ i : Nat) : Rat) * f.spacing t := by
  rw [FloatFmt.spacing, Int.natCast_add, ← Int.add_assoc, two_zpow_add, two_zpow_natCast i, Rat.mul_comm]
  rfl

theorem codeValue_subnormal (f : FloatFmt) {m : Nat} (hm : m < 2 ^ f.fb) : codeValue f m = m * f.spacing 0 := by
  have hexp : ((max 0 1 : Nat) : Int) - f.bias - f.fb = f.minExp + (0 : Nat) := by unfold FloatFmt.minExp; omega
  simp only [codeValue, FloatFmt.spacing, Nat.div_eq_of_lt hm, Nat.mod_eq_of_lt hm, if_true, hexp]

theorem codeValue_normal (f : FloatFmt) (t : Nat) {r : Nat} (hr : r < 2 ^ f.fb) :
    codeValue f ((t + 1) * 2 ^ f.fb + r) = ((2 ^ f.fb + r : Nat) : Rat) * f.spacing t := by
  have hfield : ((t + 1) * 2 ^ f.fb + r) / 2 ^ f.fb = t + 1 := by
    rw [Nat.mul_comm, Nat.mul_add_div (Nat.two_pow_pos f.fb), Nat.div_eq_of_lt hr, Nat.add_zero]
  have hfrac : ((t + 1) * 2 ^ f.fb + r) % 2 ^ f.fb = r := by
    rw [Nat.mul_comm, Nat.mul_add_mod, Nat.mod_eq_of_lt hr]
  have hexp : ((max (t + 1) 1 : Nat) : Int) - f.bias - f.fb = f.minExp + t := by unfold FloatFmt.minExp; omega
  simp only [codeValue, FloatFmt.spacing, hfield, hfrac, if_neg (Nat.succ_ne_zero t), hexp]

/-- The code that roundMag forms of t and k has the value k spacings, also where k is carried to the next exponent field. -/
theorem codeValue_grid (f : FloatFmt) {t k : Nat} (hk : k ≤ 2 ^ (f.fb + 1)) (ht : 0 < t → 2 ^ f.fb ≤ k) :
    codeValue f (t * 2 ^ f.fb + k) = k * f.spacing t := by
  rw [Nat.pow_succ] at hk
  rcases Nat.lt_or_ge k (2 ^ f.fb) with hlt | hge
  · obtain rfl : t = 0 := by omega
    rw [Nat.zero_mul, Nat.zero_add, codeValue_subnormal f hlt]
  · obtain ⟨r, rfl⟩ := Nat.exists_eq_add_of_le hge
    rcases Nat.lt_or_ge r (2 ^ f.fb) with hr | hr
    · rw [← codeValue_normal f t hr, Nat.succ_mul, Nat.add_assoc]
    · obtain rfl : r = 2 ^ f.fb := by omega
      have hcode : t * 2 ^ f.fb + (2 ^ f.fb + 2 ^ f.fb) = (t + 1 + 1) * 2 ^ f.fb + 0 := by grind
      have hdouble : (2 ^ f.fb + 0) * 2 ^ 1 = 2 ^ f.fb + 2 ^ f.fb := by omega
      rw [hcode, codeValue_normal f (t + 1) (Nat.two_pow_pos f.fb), f.spacing_add t 1, ← Rat.mul_assoc, ← Rat.natCast_mul, hdouble]

theorem exists_grid (f : FloatFmt) (c : Nat) :
    ∃ t m, c = t * 2 ^ f.fb + m ∧ m < 2 ^ (f.fb + 1) ∧ (0 < t → 2 ^ f.fb ≤ m) := by
  have hdiv := Nat.div_add_mod' c (2 ^ f.fb)
  have hmod := Nat.mod_lt c (Nat.two_pow_pos f.fb)
  rw [Nat.pow_succ]
  cases hfield : c / 2 ^ f.fb with
  | zero =>
    rw [hfield] at hdiv
    exact ⟨0, c % 2 ^ f.fb, by omega, by omega, by omega⟩
  | succ t =>
    rw [hfield, Nat.succ_mul] at hdiv
    exact ⟨t, 2 ^ f.fb + c % 2 ^ f.fb, by omega, by omega, by omega⟩

theorem codeValue_lt_succ (f : FloatFmt) (c : Nat) : codeValue f c < codeValue f (c + 1) := by
  obtain ⟨t, m, rfl, hm, ht⟩ := exists_grid f c
  rw [codeValue_grid f (Nat.le_of_lt hm) ht, Nat.add_assoc, codeValue_grid f hm fun h => Nat.le_succ_of_le (ht h)]
  exact Rat.mul_lt_mul_of_pos_right (Rat.natCast_lt_natCast.mpr m.lt_succ_self) (f.spacing_pos t)

theorem codeValue_lt (f : FloatFmt) {b c : Nat} (h : b < c) : codeValue f b < codeValue f c := by
  induction h with
  | refl => exact codeValue_lt_succ f b
  | @step c _ ih => grind [codeValue_lt_succ f c]

theorem codeValue_injective (f : FloatFmt) {b c : Nat} (h : codeValue f b = codeValue f c) : b = c := by
  rcases Nat.lt_trichotomy b c with hlt | heq | hgt
  · exact absurd h (Rat.ne_of_lt (codeValue_lt f hlt))
  · exact heq
  · exact absurd h (Rat.ne_of_gt (codeValue_lt f hgt))

/-- Seen at the spacing t, a code's value is a multiple of the spacing or lies below the range of t. -/
theorem codeValue_multiple_or_below (f : FloatFmt) (t c : Nat) :
    (∃ m : Nat, codeValue f c = m * f.spacing t) ∨ 0 < t ∧ ∃ y, codeValue f c = y * f.spacing t ∧ y < ((2 ^ f.fb : Nat) : Rat) := by
  obtain ⟨u, m, rfl, hm, hu⟩ := exists_grid f c
  rw [codeValue_grid f (Nat.le_of_lt hm) hu]
  rcases Nat.lt_or_ge u t with hut | htu
  · obtain ⟨i, rfl⟩ := Nat.exists_eq_add_of_lt hut
    have hpow : 2 ^ (f.fb + 1) ≤ 2 ^ f.fb * 2 ^ (i + 1) := by
      rw [← Nat.pow_add]
      exact Nat.pow_le_pow_right Nat.two_pos (by omega)
    have hlt : (m : Rat) < ((2 ^ f.fb * 2 ^ (i + 1) : Nat) : Rat) := Rat.natCast_lt_natCast.mpr (Nat.lt_of_lt_of_le hm hpow)
    have hscale : (0 : Rat) < ((2 ^ (i + 1) : Nat) : Rat) := Rat.natCast_pos.mpr (Nat.two_pow_pos _)
    refine .inr ⟨by omega, (m : Rat) / ((2 ^ (i + 1) : Nat) : Rat), ?_, ?_⟩
    · rw [Nat.add_assoc, f.spacing_add u (i + 1), ← Rat.mul_assoc, Rat.div_mul_cancel (Rat.ne_of_gt hscale)]
    · rwa [Rat.div_lt_iff hscale, ← Rat.natCast_mul]
  · obtain ⟨i, rfl⟩ := Nat.exists_eq_add_of_le htu
    exact .inl ⟨m * 2 ^ i, by rw [f.spacing_add t i, Rat.natCast_mul, Rat.mul_assoc]⟩

/-! ### The code that rounding takes -/

/-- x is z spacings of t, lies in the range of t, and is k spacings when rounded to a whole number of them. -/
structure RoundsAt (f : FloatFmt) (x : Rat) (t k : Nat) (z : Rat) : Prop where
  value : x = z * f.spacing t
  nearest : NearestEven z k
  below : z < ((2 ^ (f.fb + 1) : Nat) : Rat)
  above : 0 < t → ((2 ^ f.fb : Nat) : Rat) ≤ z

theorem RoundsAt.codeValue_eq {f : FloatFmt} {x z : Rat} {t k : Nat} (h : RoundsAt f x t k z) :
    codeValue f (t * 2 ^ f.fb + k) = k * f.spacing t :=
  codeValue_grid f (h.nearest.le_of_lt h.below) fun ht => h.nearest.le_of_le (h.above ht)

/-- No other code's value is nearer, and k is even where one is as near. -/
theorem RoundsAt.other_not_nearer {f : FloatFmt} {x z : Rat} {t k c : Nat} (h : RoundsAt f x t k z) (hc : c ≠ t * 2 ^ f.fb + k) :
    apartBy x (codeValue f (t * 2 ^ f.fb + k)) ≤ apartBy x (codeValue f c) ∧
    (apartBy x (codeValue f (t * 2 ^ f.fb + k)) = apartBy x (codeValue f c) → k % 2 = 0) := by
  have hpos := f.spacing_pos t
  have hval := h.codeValue_eq
  rcases codeValue_multiple_or_below f t c with ⟨m, hm⟩ | ⟨ht, y, hy, hlt⟩
  · have hmk : m ≠ k := by
      rintro rfl
      exact hc (codeValue_injective f (hm.trans hval.symm))
    obtain ⟨hle, htie⟩ := h.nearest.int_not_nearer hmk
    rw [hval, hm, h.value, apartBy_mul hpos, apartBy_mul hpos]
    exact ⟨Rat.mul_le_mul_of_nonneg_right hle (Rat.le_of_lt hpos), fun heq =>
      htie (Rat.le_antisymm hle (Rat.le_of_mul_le_mul_right (by grind) hpos))⟩
  · have hnear := Rat.mul_lt_mul_of_pos_right (h.nearest.nearer_than_below hlt (h.above ht)) hpos
    rw [hval, hy, h.value, apartBy_mul hpos, apartBy_mul hpos]
    exact ⟨Rat.le_of_lt hnear, fun heq => absurd heq (Rat.ne_of_lt hnear)⟩

theorem mul_two_zpow_eq_spacings (f : FloatFmt) (y : Rat) (e : Int) (t : Nat) :
    y * 2 ^ e = y * 2 ^ (e - (f.minExp + t)) * f.spacing t := by
  rw [FloatFmt.spacing, Rat.mul_assoc, ← two_zpow_add, Int.sub_add_cancel]

/-- A magnitude of at most half a subnormal spacing rounds to zero. -/
theorem roundsAt_zero (f : FloatFmt) {y : Rat} {e : Int} (h0 : 0 ≤ y * 2 ^ (e - (f.minExp + (0 : Nat))))
    (h1 : 2 * (y * 2 ^ (e - (f.minExp + (0 : Nat)))) ≤ 1) : RoundsAt f (y * 2 ^ e) 0 0 (y * 2 ^ (e - (f.minExp + (0 : Nat)))) where
  value := mul_two_zpow_eq_spacings f y e 0
  nearest := nearestEven_zero h0 h1
  below := by
    have hone : (1 : Rat) ≤ ((2 ^ (f.fb + 1) : Nat) : Rat) := by exact_mod_cast Nat.two_pow_pos (f.fb + 1)
    grind
  above h := absurd h (Nat.lt_irrefl 0)

section
variable {n d : Nat} (hn : 0 < n) (hd : 0 < d)
include hn hd

theorem scaled_lt_two_zpow {s b : Int} (hb : log2Quot n d + 1 + s ≤ b) : (n : Rat) / d * 2 ^ s < 2 ^ b := by
  have hlt := Rat.mul_lt_mul_of_pos_right (log2Quot_bounds hn hd).2 (two_zpow_pos s)
  rw [← two_zpow_add] at hlt
  grind [two_zpow_le hb]

theorem two_zpow_le_scaled {s b : Int} (hb : b ≤ log2Quot n d + s) : (2 : Rat) ^ b ≤ (n : Rat) / d * 2 ^ s := by
  have hle := Rat.mul_le_mul_of_nonneg_right (log2Quot_bounds hn hd).1 (Rat.le_of_lt (two_zpow_pos s))
  rw [← two_zpow_add] at hle
  exact Rat.le_trans (two_zpow_le hb) hle

theorem roundsAt_zero_of_small (f : FloatFmt) {e : Int} (h : log2Quot n d + e < f.minExp - 40) :
    RoundsAt f ((n : Rat) / d * 2 ^ e) 0 0 ((n : Rat) / d * 2 ^ (e - (f.minExp + (0 : Nat)))) := by
  have hlo := two_zpow_le_scaled hn hd (s := e - (f.minExp + (0 : Nat))) Int.le_rfl
  have hhi := scaled_lt_two_zpow hn hd (s := e - (f.minExp + (0 : Nat))) (b := -1) (by omega)
  have hhalf := two_zpow_add (-1) 1
  rw [show (-1 : Int) + 1 = 0 from rfl, Rat.zpow_zero, Rat.zpow_one] at hhalf
  exact roundsAt_zero f (Rat.le_trans (Rat.le_of_lt (two_zpow_pos _)) hlo) (by grind)

/-- The spacing that roundMag rounds at: the subnormal one, or the one that leaves fb bits below the top bit. -/
theorem roundsAt_of_nearestEven (f : FloatFmt) {e : Int} {t k : Nat} (ht : (log2Quot n d + e - f.fb - f.minExp).toNat = t)
    (hk : NearestEven ((n : Rat) / d * 2 ^ (e - (f.minExp + t))) k) :
    RoundsAt f ((n : Rat) / d * 2 ^ e) t k ((n : Rat) / d * 2 ^ (e - (f.minExp + t))) where
  value := mul_two_zpow_eq_spacings f _ e t
  nearest := hk
  below := by
    rw [← two_zpow_natCast]
    exact scaled_lt_two_zpow hn hd (by omega)
  above h0 := by
    rw [← two_zpow_natCast]
    exact two_zpow_le_scaled hn hd (by omega)

end

/-- What roundMag does: past every format's range it answers a code above all finite ones, and else it rounds at some spacing. -/
theorem roundMag_nearest_cases (f : FloatFmt) (n d : Nat) (e : Int) (hd : 0 < d) :
    f.roundMag .nearest n d e = 2 * 2 ^ f.mag ∨
    ∃ t k z, f.roundMag .nearest n d e = t * 2 ^ f.fb + k ∧ RoundsAt f ((n : Rat) / d * 2 ^ e) t k z := by
  rcases Nat.eq_zero_or_pos n with rfl | hn
  · have hzero : ((0 : Nat) : Rat) / d * 2 ^ (e - (f.minExp + (0 : Nat))) = 0 := by
      rw [Rat.div_def, show ((0 : Nat) : Rat) = 0 from rfl, Rat.zero_mul, Rat.zero_mul]
    refine .inr ⟨0, 0, _, ?_, roundsAt_zero f (by grind) (by grind)⟩
    rw [FloatFmt.roundMag, if_pos rfl, Nat.zero_mul]
  unfold FloatFmt.roundMag
  have hmin : 1 - (f.bias : Int) - f.fb = f.minExp := rfl
  simp only [if_neg (Nat.ne_of_gt hn), hmin]
  by_cases hsmall : log2Quot n d + e < f.minExp - 40
  · exact .inr ⟨0, 0, _, by rw [if_pos hsmall, Nat.zero_mul], roundsAt_zero_of_small hn hd f hsmall⟩
  by_cases hlarge : log2Quot n d + e > f.bias + 40
  · exact .inl (by rw [if_neg hsmall, if_pos hlarge])
  · obtain ⟨t, ht⟩ : ∃ t, (log2Quot n d + e - f.fb - f.minExp).toNat = t := ⟨_, rfl⟩
    have hexp : max f.minExp (log2Quot n d + e - f.fb) = f.minExp + t := by omega
    have hfield : (f.minExp + t - f.minExp).toNat = t := by omega
    rw [if_neg hsmall, if_neg hlarge, hexp, hfield]
    exact .inr ⟨t, _, _, rfl, roundsAt_of_nearestEven hn hd f ht (nearestEven_roundQuot_shift n d hd _)⟩

/-- The code taken against any other (04 R125): it is as near, even on a tie, and the one that has the value x where one does. -/
theorem RoundsAt.code_nearest {f : FloatFmt} {x z : Rat} {t k : Nat} (h : RoundsAt f x t k z) (hfb : 0 < f.fb) (c : Nat) :
    apartBy x (codeValue f (t * 2 ^ f.fb + k)) ≤ apartBy x (codeValue f c) ∧
    (apartBy x (codeValue f (t * 2 ^ f.fb + k)) = apartBy x (codeValue f c) → c ≠ t * 2 ^ f.fb + k → (t * 2 ^ f.fb + k) % 2 = 0) ∧
    (x = codeValue f c → t * 2 ^ f.fb + k = c) := by
  have hparity : (t * 2 ^ f.fb + k) % 2 = k % 2 := by
    obtain ⟨j, hj⟩ := Nat.exists_eq_add_of_lt hfb
    rw [hj, Nat.pow_succ, ← Nat.mul_assoc, Nat.mul_add_mod_self_right]
  rw [hparity]
  by_cases hc : c = t * 2 ^ f.fb + k
  · rw [hc]
    exact ⟨Rat.le_refl, fun _ hne => absurd rfl hne, fun _ => rfl⟩
  · obtain ⟨hle, htie⟩ := h.other_not_nearer hc
    refine ⟨hle, fun heq _ => htie heq, fun hx => ?_⟩
    rw [← hx, apartBy_self] at hle
    exact codeValue_injective f ((eq_of_apartBy_nonpos hle).symm.trans hx)

theorem formats_fraction_and_range :
    ∀ f ∈ [fp32, bf16, fp16, e4m3, e5m2, fp4], 0 < f.fb ∧ f.maxc < 2 * 2 ^ f.mag := by decide

/-- Settles O60: a code of a format is a whole number of the spacing that its magnitude is rounded at, and rounding takes the nearest
whole number. -/
theorem nearestRoundingTiesToEven : Obligations.NearestRoundingTiesToEven := by
  unfold Obligations.NearestRoundingTiesToEven
  refine ⟨fun f hf n d e hd => ?_, fun n d hd => ?_, by decide, by decide⟩
  · intro x k hk c _
    obtain ⟨hfb, hmax⟩ := formats_fraction_and_range f hf
    rcases roundMag_nearest_cases f n d e hd with hover | ⟨t, m, z, hcode, hround⟩
    · exact absurd hover (Nat.ne_of_lt (Nat.lt_of_le_of_lt hk hmax))
    · have hkcode : k = t * 2 ^ f.fb + m := hcode
      rw [hkcode]
      exact hround.code_nearest hfb c
  · obtain ⟨hupper, hlower, heven⟩ := roundQuot_nearest_bounds n d hd
    exact ⟨hupper, hlower, heven, fun j hj => hj ▸ roundQuot_nearest_mul j d hd⟩

end Sys2Proof.Machine
end

section
/-! What leaves the power registers as they were (13 R352): of the operations that a boot, a reset or a processor's restart runs, all but
those named in the next section. Each proof follows the branches of the operation. -/
namespace Sys2Proof.Machine
variable (s : State)

/-! ### Folds -/

/-- What every step of a fold leaves as it was, the fold leaves as it was. -/
theorem foldl_unchanged {σ α β : Type} (π : σ → β) {f : σ → α → σ} (hf : ∀ x a, π (f x a) = π x) (l : List α) (x : σ) :
    π (l.foldl f x) = π x :=
  foldl_keeps (fun y => π y = π x) f (fun y a h => (hf y a).trans h) l x rfl

@[simp] theorem foldl_power {α : Type} {f : State → α → State} (hf : ∀ x a, (f x a).power = x.power) (l : List α) :
    (l.foldl f s).power = s.power := foldl_unchanged State.power hf l s

/-! ### Memory -/

@[simp] theorem countWord_power (w : Nat) : (countWord s w).power = s.power := by
  simp only [countWord]
  split
  · rfl
  · split <;> rfl

@[simp] theorem countWords_power (ws : List Nat) : (countWords s ws).power = s.power := 
  (foldl_power _ (fun x r => noteRow_power x r 1) _).trans (foldl_power _ countWord_power _)

@[simp] theorem writeInWord_power (sub : Bool) (a : Nat) (bs : List Byte) (w : Nat) : (writeInWord s sub a bs w).1.power = s.power := by
  simp only [writeInWord]
  split
  · rfl
  · split
    · rfl
    · split <;> rfl

@[simp] theorem noteWrite_power (y : By) (g : Nat) : (noteWrite s y g).power = s.power := by
  cases y with
  | step q f => simp only [noteWrite]; split <;> rfl
  | outside => simp [noteWrite]

@[simp] theorem writeRun_power (y : By) (a : Nat) (bs : List Byte) (sub : Bool) : (writeRun s y a bs sub).1.power = s.power := by
  simp only [writeRun]
  split
  · rfl
  · rw [foldl_power _ fun x g => by split <;> simp, foldl_unchanged (fun p : State × Bool => p.1.power) fun p w => by simp]
    simp

@[simp] theorem badWordFault_power (r : Fault16) (w : Nat) : (badWordFault s r w).power = s.power := by simp [badWordFault]
@[simp] theorem refusedAccess_power (src q a : Nat) (st : Status) : (refusedAccess s src q a st).power = s.power := by simp [refusedAccess]

@[simp] theorem touchGranule_power (q : Option Nat) (look install : Bool) (g : Nat) :
    (touchGranule s q look install g).power = s.power := by
  obtain ⟨_, _, h⟩ := touchGranule_eq s q look install g
  rw [h]
  rfl

@[simp] theorem scrubWord_power (w : Nat) : (scrubWord s w).power = s.power := by
  simp only [scrubWord]
  split <;> rfl

@[simp] theorem clearQueueHigh_power (a n : Nat) : (clearQueueHigh s a n).power = s.power := by
  obtain ⟨_, h⟩ := clearQueueHigh_eq s a n
  rw [h]
  rfl

@[simp] theorem readRun_power (q : Option Nat) (look install : Bool) (a n : Nat) : (readRun s q look install a n).1.power = s.power := by
  have htouch : ∀ (x : State) (g : Nat), (if 256 * g < stackTop x then touchGranule x q look install g else x).power = x.power :=
    fun x g => by split <;> simp
  simp [readRun, htouch]

/-! ### Contexts, barrier units and signal words -/

@[simp] theorem goTo_power (t c : Nat) (x : Ctx) (n : Nat) : (goTo s t c x n).power = s.power := by
  obtain h | h := goTo_cases s t c x n <;> rw [h]
  · rfl
  · simp [goTo.halted, unwrittenFault, dropCheck]

@[simp] theorem endStep_power (t c : Nat) (w : BitVec 128) (r : StepEnd) : (endStep t c w r).power = r.state.power := by
  cases r <;> simp [endStep, StepEnd.state]

@[simp] theorem countSleep_power (t c : Nat) : (countSleep s t c).power = s.power := by
  simp only [countSleep]
  split <;> rfl

@[simp] theorem dropChecks_power (p : Nat → CheckRun → Bool) : (dropChecks s p).power = s.power := rfl

@[simp] theorem settleBarrier_power (q u : Nat) : (settleBarrier s q u).power = s.power := by
  have honce (x : State) :
      (if (barrierOf x q u).full then pulseWire (setBarrier x q u (barrierOf x q u).release) q (barrierOf x q u).wake else x).power
        = x.power := by
    split <;> rfl
  exact (honce _).trans (honce s)

@[simp] theorem applySignal_power (src q w : Nat) (v : BitVec 32) : (applySignal s src q w v).power = s.power := by
  simp only [applySignal]
  split <;> simp

@[simp] theorem sendSignal_power (src o q w : Nat) (v : BitVec 32) : (sendSignal s src o q w v).power = s.power := by
  unfold sendSignal
  split <;> simp

/-! ### Ports -/

@[simp] theorem launch_power (k : Nat) (f : Flit) : (launch s k f).power = s.power := rfl

@[simp] theorem sendFlit_power (k : Nat) (f : Flit) : (sendFlit s k f).power = s.power := by
  simp only [sendFlit]
  split
  · rfl
  · split
    · split <;> simp
    · rfl

@[simp] theorem sendRefuse_power (k : Nat) (f : Flit) (st : Status) : (sendRefuse s k f st).power = s.power := by
  simp only [sendRefuse]
  split <;> simp

@[simp] theorem refuseFlit_power (k : Nat) (f : Flit) (st : Status) (b : Bool) : (refuseFlit s k f st b).power = s.power := by
  unfold refuseFlit
  split <;> simp

@[simp] theorem linkFault_power (k : Nat) (st : Status) (n : Nat) : (linkFault s k st n).power = s.power := by simp [linkFault]

@[simp] theorem retrainPort_power (k : Nat) : (retrainPort s k).power = s.power := by
  simp only [retrainPort]
  split <;> rfl

@[simp] theorem protocolError_power (k : Nat) : (protocolError s k).power = s.power := by simp [protocolError]

/-! ### Collective groups -/

@[simp] theorem putGroup_power (n : Nat) (g : Group) : (putGroup s n g).power = s.power := by simp [putGroup]

@[simp] theorem groupFault_power (g : Group) (st : Status) (n : BitVec 64) : (groupFault s g st n).power = s.power := by simp [groupFault]

@[simp] theorem sendControl_power (g : Group) (p code n v : Nat) : (sendControl s g p code n v).power = s.power := sendFlit_power ..

@[simp] theorem sendAbandon_power (g : Group) (but : Option Nat) : (sendAbandon s g but).power = s.power := by simp [sendAbandon]

@[simp] theorem dropWaiting_power (g : Group) : (dropWaiting s g).power = s.power := by
  unfold dropWaiting
  exact foldl_power _ (fun x k => setPort_power x k _) _

@[simp] theorem wakeColl_power (n : Nat) (c : CollCmd) (st : Status) (b : Bool) : (wakeColl s n c st b).power = s.power := by
  simp only [wakeColl]
  split
  · split <;> simp [StepEnd.state]
  · rfl

@[simp] theorem endCommand_power (n : Nat) (c : CollCmd) (st : Status) (b : Bool) : (endCommand s n c st b).power = s.power := by
  simp only [endCommand]
  split
  · split <;> simp
  · rfl

@[simp] theorem endCommands_power (n : Nat) (st : Status) (p : CollCmd → Bool) : (endCommands s n st p).power = s.power := by
  simp only [endCommands]
  split
  · split <;> simp
  · rfl

@[simp] theorem abandonGroup_power (n : Nat) (from_ : Option Nat) : (abandonGroup s n from_).power = s.power := by
  simp only [abandonGroup]
  split
  · split
    · rfl
    · split <;> simp
  · rfl

@[simp] theorem stageChunk_power (g : GroupRec) (c : CollCmd) (i h : Nat) (bs : List Byte) : (stageChunk s g c i h bs).power = s.power := by
  simp [stageChunk]

@[simp] theorem sendChunk_power (g : Group) (c : CollCmd) (n : Nat) (k : Chunk) : (sendChunk s g c n k).power = s.power := by
  simp [sendChunk]

@[simp] theorem releaseSlot_power (n slot : Nat) : (releaseSlot s n slot).power = s.power := by
  unfold releaseSlot
  split <;> simp

@[simp] theorem pumpGroup_power (n fuel : Nat) : (pumpGroup s n fuel).power = s.power := by
  induction fuel generalizing s with
  | zero => rfl
  | succ fuel ih =>
    simp only [pumpGroup]
    split
    · split
      · split
        · split
          · rw [ih]; split <;> simp
          · rfl
        · rfl
      · rfl
    · rfl

@[simp] theorem setRun_power (n : Nat) (r : CollRun) : (setRun s n r).power = s.power := by
  unfold setRun
  split <;> simp

@[simp] theorem slotsReleased_power (n count : Nat) : (slotsReleased s n count).power = s.power := by
  unfold slotsReleased
  split
  · split <;> simp
  · rfl

@[simp] theorem partitionGroup_power (n : Nat) (epoch : BitVec 16) (from_ : Option Nat) :
    (partitionGroup s n epoch from_).power = s.power := by
  simp only [partitionGroup]
  split
  · split
    · rfl
    · split <;> simp
  · rfl

@[simp] theorem noticeArrives_power (n : Nat) (epoch : BitVec 16) (k : Nat) : (noticeArrives s n epoch k).power = s.power := by
  unfold noticeArrives
  split
  · split <;> simp
  · rfl

@[simp] theorem becomeReady_power (n : Nat) (g : Group) (epoch : BitVec 16) : (becomeReady s n g epoch).power = s.power := putGroup_power ..

@[simp] theorem tokenArrives_power (n : Nat) (epoch : BitVec 16) : (tokenArrives s n epoch).power = s.power := by
  simp only [tokenArrives]
  split
  · split
    · rfl
    · split
      · simp
      · split <;> simp
  · rfl

@[simp] theorem readyArrives_power (n : Nat) (epoch : BitVec 16) : (readyArrives s n epoch).power = s.power := by
  simp only [readyArrives]
  split
  · split
    · rfl
    · rw [apply_ite State.power, sendControl_power, ite_self]
      split
      · split <;> simp
      · simp
  · rfl

@[simp] theorem failRun_power (n : Nat) (st : Status) : (failRun s n st).power = s.power := by
  unfold failRun
  split
  · split <;> simp [dropRun]
  · rfl

@[simp] theorem checkArrives_power (n : Nat) (v : BitVec 16) (k : Nat) : (checkArrives s n v k).power = s.power := by
  unfold checkArrives
  split
  · split
    · rfl
    · split <;> simp
  · rfl

/-! ### Flits handled -/

@[simp] theorem doControlFlit_power (k : Nat) (f : Flit) : (doControlFlit s k f).power = s.power := by
  simp only [doControlFlit]
  split
  · simp
  · split
    · simp
    · split <;> simp

theorem doWriteFlit_power {s u : State} {k : Nat} {f : Flit} (h : doWriteFlit s k f = some u) : u.power = s.power := by
  simp only [doWriteFlit] at h
  split at h
  · cases h; simp
  split at h
  · cases h
  split at h
  · cases h; rfl
  split at h
  · cases h; rfl
  · cases h; rfl
  · cases h
  split at h
  · cases h
  split at h
  · cases h; simp
  cases h
  split <;> simp

theorem doSignalFlit_power {s u : State} {k : Nat} {f : Flit} (h : doSignalFlit s k f = some u) : u.power = s.power := by
  simp only [doSignalFlit] at h
  split at h
  · cases h; simp
  split at h
  · cases h; simp
  split at h
  · cases h; simp
  · cases h

theorem doLaneFlit_power {s u : State} {k : Nat} {f : Flit} (h : doLaneFlit s k f = some u) : u.power = s.power := by
  unfold doLaneFlit at h
  split at h
  · exact doWriteFlit_power h
  split at h
  · cases h; simp
  · exact doSignalFlit_power h

@[simp] theorem drainLane_power (k lane n : Nat) : (drainLane k lane n s).power = s.power := by
  induction n generalizing s with
  | zero => rfl
  | succ n ih =>
    simp only [drainLane]
    split
    · rfl
    · split
      next u hu => rw [ih, doLaneFlit_power hu, setPort_power]
      next => rfl

@[simp] theorem settleLanes_power : (settleLanes s).power = s.power := by simp [settleLanes]

end Sys2Proof.Machine
end

section
/-! Boots, resets and processor restarts keep the package cap (13 R352). Of the power registers they change the quarters, the trip, the
power state and the resets called for; a power-on reset alone takes the cap from its reset value. -/
namespace Sys2Proof.Machine
variable (s : State)

@[simp] theorem foldl_power_cap {α : Type} {f : State → α → State} (hf : ∀ x a, (f x a).power.cap = x.power.cap) (l : List α) :
    (l.foldl f s).power.cap = s.power.cap := foldl_unchanged (fun x : State => x.power.cap) hf l s

/-! ### Tiles and fields -/

@[simp] theorem resetArray_power (t : Nat) : (resetArray s t).power = s.power := rfl

@[simp] theorem quarantineTile_power (t cause : Nat) : (quarantineTile s t cause).power = s.power := by
  have hbarrier (fs : List Nat) (x : State) (i : Nat) :
      (if fs.contains (barrierOf x (i / 64) (i % 64)).field then
        settleBarrier (setBarrier x (i / 64) (i % 64) ((barrierOf x (i / 64) (i % 64)).leaveTile t)) (i / 64) (i % 64)
      else x).power = x.power := by
    split <;> simp
  unfold quarantineTile
  split
  · rfl
  · simp only [settleLanes_power, resetArray_power]
    rw [foldl_power, foldl_power _ (hbarrier _), foldl_power]
    · simp [quarantineFault]
    · simp
    · intro x n
      split
      · split <;> simp
      · rfl

@[simp] theorem leaveGroup_power (send : Bool) (n : Nat) : (leaveGroup send s n).power = s.power := by
  simp only [leaveGroup]
  split
  · split <;> simp
  · rfl

@[simp] theorem endFieldWork_power (f : Nat) : (endFieldWork s f).power = s.power := by simp [endFieldWork]

@[simp] theorem countOutcome_power_cap (q : Nat) (o : RepeatOutcome) : (countOutcome s q o).power.cap = s.power.cap := rfl

@[simp] theorem endChecks_power_cap (f : Nat) : (endChecks s f).power.cap = s.power.cap := by
  unfold endChecks
  exact foldl_power_cap s (fun x (p : Nat × Ctx) => countOutcome_power_cap x (tileQuarter (p.1 / 16)) .notCompared) _

@[simp] theorem resetField_power_cap (send : Bool) (f : Nat) : (resetField send s f).power.cap = s.power.cap := by
  unfold resetField
  split
  · rfl
  · simp [removeField, clearFieldLogs, releaseSync]

@[simp] theorem resetFields_power_cap (send : Bool) (fs : List Nat) : (resetFields send s fs).power.cap = s.power.cap := by
  simp [resetFields]

/-! ### Quarters -/

@[simp] theorem groupsOnPort_power (before : List Nat) (k : Nat) : (groupsOnPort s before k).power = s.power := by
  simp only [groupsOnPort]
  refine foldl_power s (fun x n => ?_) _
  split
  · split
    · rfl
    · split
      · simp
      · split
        · rw [apply_ite State.power, sendControl_power, ite_self]
        · rfl
  · rfl

@[simp] theorem portDown_power (record : Bool) (k : Nat) (st : PortState) (mods : BitVec 10) :
    (portDown record s k st mods).power = s.power := by
  simp only [portDown]
  split <;> simp

@[simp] theorem retrainQuarter_power (q : Nat) : (retrainQuarter s q).power = s.power := by
  have hring (x : State) (l : Nat) :
      (if (ringOf x l).state = .heldDown then x else setRing x l { ringOf x l with state := .training, resends := 0 }).power
        = x.power := by
    split <;> rfl
  simp [retrainQuarter, hring]

@[simp] theorem loseTiles_power (lo hi : Nat) : (loseTiles s lo hi).power = s.power := rfl

@[simp] theorem resetQuarter_power_cap (q : Nat) : (resetQuarter s q).power.cap = s.power.cap := by
  simp only [resetQuarter, setQuarter_power_cap, retrainQuarter_power]
  split <;> simp

/-! ### Boot to early service -/

theorem emptyRegion_power (k : Nat) : (emptyRegion s k).power = s.power := by
  simp only [emptyRegion, boardFault, logFault_power]
  split <;> rfl

@[simp] theorem readFlash_power (env : BootEnv) : (readFlash s env).power = s.power := foldl_power s emptyRegion_power _

@[simp] theorem readBoard_power (env : BootEnv) : (readBoard s env).power = s.power := by
  unfold readBoard
  split
  · rfl
  · simp [boardFault]

@[simp] theorem bootNet_power : (bootNet s).power = s.power := rfl

@[simp] theorem appendEntry_power (kind c page : Nat) : (appendEntry s kind c page).power = s.power := by simp [appendEntry]

@[simp] theorem forgetMoved_power (c : Nat) : (forgetMoved s c).power = s.power := rfl

@[simp] theorem dropEntries_power (c : Nat) : (dropEntries s c).power = s.power := rfl

@[simp] theorem mapOut_power (c : Nat) : (mapOut s c).power = s.power := by
  simp only [mapOut]
  split
  · split <;> simp
  · split <;> simp

@[simp] theorem trainStacks_power (qs bad : List Nat) : (trainStacks s qs bad).power = s.power := by simp [trainStacks]

@[simp] theorem testTiles_power (qs bad : List Nat) : (testTiles s qs bad).power = s.power := by simp [testTiles]

@[simp] theorem setService_power_cap (qs : List Nat) : (setService s qs).power.cap = s.power.cap := rfl

@[simp] theorem h0Up_power (lanes : Nat) : (h0Up s lanes).power = s.power := by
  simp only [h0Up]
  split <;> rfl

@[simp] theorem bootH0_power (env : BootEnv) : (bootH0 s env).power = s.power := by
  unfold bootH0
  split
  · rfl
  · split
    · simp [selectModule]
    · rfl

@[simp] theorem bootEarly_power_cap (env : BootEnv) : (bootEarly env s).power.cap = s.power.cap := by
  simp only [bootEarly]
  split
  · simp
  · split <;> simp

/-! ### Package warm resets -/

theorem warmFault_power (c : ResetCause) : (warmFault s c).power = s.power := by
  cases c <;> simp [warmFault]

@[simp] theorem spreadBudgets_power_cap : (spreadBudgets s).power.cap = s.power.cap := rfl

@[simp] theorem warmClear_power_cap (send : Bool) : (warmClear send s).power.cap = s.power.cap := by
  simp only [warmClear, spreadBudgets_power_cap]
  split <;> simp [retainStacks, forgetStacks, dropOverwritten, keepRetained]

@[simp] theorem warmBoot_power_cap (env : BootEnv) : (warmBoot env s).power.cap = s.power.cap := by
  simp [warmBoot, warmFault_power]

/-! ### Firmware processors -/

@[simp] theorem restartFault_power (p cause : Nat) : (restartFault s p cause).power = s.power := by simp [restartFault]

@[simp] theorem processorLoss_power_cap (p : Nat) : (processorLoss s p).power.cap = s.power.cap := by
  unfold processorLoss
  split
  · rfl
  · split <;> simp

@[simp] theorem callWarm_power_cap (c : ResetCause) : (callWarm s c).power.cap = s.power.cap := rfl

@[simp] theorem restartProcessor_power_cap (p cause : Nat) : (restartProcessor s p cause).power.cap = s.power.cap := by
  simp only [restartProcessor]
  split
  · simp
  · split
    · simp
    · split <;> simp

end Sys2Proof.Machine
end

section
/-! What a message's arrival, its reply and the requests that waited for a processor leave of the power registers (14 R376, R378 to
R382; 09 R250; 10 R257 to R263). -/
namespace Sys2Proof.Machine
variable (s : State)

/-! ### H0 -/

@[simp] theorem notePriority_power (prio : Nat) : (notePriority s prio).power = s.power := by
  simp only [notePriority]
  split
  · rfl
  · split <;> rfl

@[simp] theorem noteBuffers_power : (noteBuffers s).power = s.power := by simp [noteBuffers]

@[simp] theorem sendH0_power (prio n : Nat) (o : Out) : (sendH0 s prio n o).power = s.power := by
  unfold sendH0
  split <;> rfl

/-! ### Replies -/

@[simp] theorem sendMail_power (src : Src) (mac : BitVec 48) (bs : List Byte) : (sendMail s src mac bs).power = s.power := by
  cases src with
  | udp a p => simp only [sendMail]; split <;> simp
  | mctp e => rfl

@[simp] theorem refuseMail_power (m : Mail) (minor type : Nat) (st : Status) : (refuseMail s m minor type st).power = s.power := by
  simp [refuseMail]

@[simp] theorem complete_power (src : Src) (mac : BitVec 48) (minor type : Nat) (seq : BitVec 32) (st : Status) (bs : List Byte) :
    (complete s src mac minor type seq st bs).power = s.power := by
  simp [complete]

@[simp] theorem completeLater_power (src : Src) (mac : BitVec 48) (type : Nat) (seq : BitVec 32) (st : Status) (bs : List Byte) :
    (completeLater s src mac type seq st bs).power = s.power := by
  unfold completeLater
  split
  · split <;> simp
  · rfl

/-! ### Arrival -/

@[simp] theorem receiveMail_power (src : Src) (via : Via) : (receiveMail s src via).1.power = s.power := by
  cases src with
  | udp a p =>
    simp only [receiveMail]
    split
    · rfl
    · split
      · rfl
      · split <;> rfl
  | mctp e => rfl

/-- A message that reaches the management processor changes none of its registers. -/
theorem receiveMail_mgmt {s r : State} {src : Src} {via : Via} (h : receiveMail s src via = (r, true)) : r.mgmt = s.mgmt := by
  cases src with
  | udp a p =>
    simp only [receiveMail] at h
    split at h
    · cases h
    split at h
    · cases h
    split at h
    · cases h; rfl
    · cases h
  | mctp e =>
    simp only [receiveMail, Prod.mk.injEq] at h
    rw [h.1]

theorem power_eq_of_reaches {s r : State} {m : Mail} (h : reaches s r m) : r.power = s.power := by
  obtain ⟨⟨-, -, -, hreceive⟩, -⟩ := h
  rw [← receiveMail_power s m.src m.via, hreceive]

theorem Session.repeated_power {s u : State} {x : Session} {m : Mail} {type : Nat} (h : x.repeated s m type = some u) :
    u.power = s.power := by
  unfold Session.repeated at h
  split at h
  · cases h
    split <;> simp
  split at h
  · split at h
    · cases h; simp
    · cases h
  · cases h

@[simp] theorem awaitDatagram_power (i : Instr) (n : Nat) : (awaitDatagram s i n).power = s.power := by
  unfold awaitDatagram
  split <;> simp [awaitMgmt]

/-! ### What a request does -/

theorem actOn_answer {s v : State} {q : Request} {st : Status} {bs : List Byte} (minor : Nat) (h : q.act s = .answer (v, st, bs)) :
    actOn s q minor = complete v q.mail.src q.mail.via.mac minor q.type q.mail.seq st bs := by
  simp only [actOn, h]

theorem actOn_answerThen {s v : State} {q : Request} {st : Status} {bs : List Byte} {after : State → State} (minor : Nat)
    (h : q.act s = .answerThen (v, st, bs) after) :
    actOn s q minor = after (complete v q.mail.src q.mail.via.mac minor q.type q.mail.seq st bs) := by
  simp only [actOn, h]

theorem actOn_later {s v : State} {q : Request} (minor : Nat) (h : q.act s = .later v) :
    actOn s q minor = withSession v q.mail.src fun x => { x with executing := some q.mail.seq } := by
  simp only [actOn, h]

/-- A message's arrival keeps the cap when serving it does. -/
theorem arrive_power_cap (i : Instr) (src : Src) (via : Via) (n : Nat) (mine : Bool) {act : State → State}
    (hact : ∀ x, (act x).power.cap = x.power.cap) : (arrive i src via n mine act s).power.cap = s.power.cap := by
  have hr := receiveMail_power s src via
  unfold arrive
  split
  · rfl
  split
  next r hm =>
    rw [hm] at hr
    exact congrArg Power.cap hr
  next r hm =>
    rw [hm] at hr
    have hcap : r.power.cap = s.power.cap := congrArg Power.cap hr
    split
    · rw [hact, hcap]
    · split
      · rw [awaitDatagram_power, hcap]
      · exact hcap

/-- A request's arrival keeps the cap when its effect does, and its refusal does nothing. -/
theorem request_power_cap (i : Instr) {q : Request} (hrefused : q.refused = id)
    (hact : ∀ x minor, (actOn x q minor).power.cap = x.power.cap) : (q.arrive i s).power.cap = s.power.cap := by
  refine arrive_power_cap s i _ _ _ _ fun x => ?_
  simp only [serve, hrefused]
  split
  · simp
  split
  · simp
  split
  next u hu => rw [Session.repeated_power hu]
  next =>
    split
    · unfold perform
      split
      · exact hact x _
      · simp
    · simp

/-- What becomes of a request that reaches the processor and passes its checks: it is acted on. -/
theorem arrive_of_reaches {s r : State} {q : Request} (i : Instr) (h : reaches s r q.mail) (hmine : q.mine = true)
    (hlen : q.mail.payload.length ≤ 4096) (hcheck : q.check r = .ok) (hneeds : ∀ p ∈ q.needs r, p < 9) :
    ∃ x, sessionOf s q.mail.src = some x ∧ q.arrive i s = actOn r q x.minor := by
  obtain ⟨⟨hoff, hrec, hruns, hreceive⟩, hall, -, x, hx, hidle, hlast⟩ := h
  have hmgmt := receiveMail_mgmt hreceive
  have hruns' (p : Nat) : processorRuns r p = processorRuns s p := by simp only [processorRuns, hmgmt]
  have hfresh : x.repeated r q.mail q.type = none := by
    simp only [Session.repeated, hidle]
    split
    next n bs hn => exact if_neg (hlast n bs hn)
    next => rfl
  have hsession : sessionOf r q.mail.src = some x := by rw [← hx]; simp only [sessionOf, hmgmt]
  have hready : (q.needs r).all (processorRuns r) = true :=
    List.all_eq_true.mpr fun p hp => (hruns' p).trans (hall p (hneeds p hp))
  refine ⟨x, hx, ?_⟩
  simp [Request.arrive, arrive, serve, perform, hmine, hlen, hoff, hrec, hreceive, hruns', hruns, hmgmt, hsession, hfresh, hcheck,
    hready]

/-! ### Messages that waited for the weighbridge (16 R432) -/

theorem wbRecord_power (n : Nat) : (wbRecord s n).1.power = s.power := by
  unfold wbRecord
  split <;> rfl

theorem wbAudit_power (n : Nat) : (wbAudit s n).1.power = s.power := by
  unfold wbAudit
  split <;> rfl

theorem wbUtc_power (utc : Nat) : (wbUtc s utc).1.power = s.power := by
  unfold wbUtc
  split <;> rfl

theorem wbCalibrate_power (p : List Byte) : (wbCalibrate s p).1.power = s.power := by
  unfold wbCalibrate
  extract_lets ch gain offset token msg good w u
  have hu : u.power = s.power := by
    simp only [u]
    split <;> rfl
  split
  · exact hu
  split
  · exact hu
  split
  · split <;> exact hu
  · exact hu

theorem weighbridgeWork_power {i : Instr} {m : Mail} {type : Nat} {f : State → Answer} (h : weighbridgeWork i = some (m, type, f)) :
    (f s).1.power = s.power := by
  unfold weighbridgeWork at h
  split at h
  all_goals cases h
  · unfold doReadoutRecord
    split
    · exact wbRecord_power s _
    · rfl
  · unfold doReadoutIdentification
    split <;> rfl
  · rfl
  · exact wbAudit_power s _
  · unfold doReadoutChallenge
    split <;> rfl
  · exact wbUtc_power s _
  · exact wbCalibrate_power s _

@[simp] theorem serveWeighbridge_power (i : Instr) : (serveWeighbridge s i).power = s.power := by
  unfold serveWeighbridge
  split
  next hw => rw [completeLater_power, weighbridgeWork_power s hw]
  next => rfl

/-! ### Requests of H0 that waited (10 R257 to R262) -/

@[simp] theorem failQp_power (i : Nat) (mac : BitVec 48) (q : Qp) (st : Status) : (failQp s i mac q st).power = s.power := by
  simp [failQp, sendRoce]

@[simp] theorem rdmaStore_power (a : Nat) (bs : List Byte) : (rdmaStore s a bs).1.power = s.power := by
  have hw := writeRun_power s .outside a bs false
  unfold rdmaStore
  split
  · split
    · split
      · simp
      · split <;> simp
    · simp
  split
  · simp
  split
  · rfl
  split
  next hr => rw [hr] at hw; simpa using hw
  next hr => rw [hr] at hw; exact hw

@[simp] theorem finishWrite_power (i : Nat) (req : Rdma) (bs : List Byte) (q good : Qp) :
    (finishWrite s i req bs q good).power = s.power := by
  have hs := rdmaStore_power s req.addr bs
  unfold finishWrite
  split
  next hr => rw [hr] at hs; simpa [sendRoce] using hs
  next hr => rw [hr] at hs; simpa using hs

@[simp] theorem rdmaLoad_power (a n : Nat) : (rdmaLoad s a n).1.power = s.power := by
  have hread := readRun_power s none false false a n
  simp only [rdmaLoad]
  split
  · simp
  split
  · rfl
  split
  next hr => rw [hr] at hread; simpa using hread
  next hr => rw [hr] at hread; exact hread

@[simp] theorem finishRead_power (i : Nat) (req : Rdma) (n : Nat) (q good : Qp) : (finishRead s i req n q good).power = s.power := by
  have hl := rdmaLoad_power s req.addr n
  unfold finishRead
  split
  next hr => rw [hr] at hl; simpa [sendRoce] using hl
  next hr => rw [hr] at hl; simpa using hl

/-! ### Window writes that waited (09 R249, R250) -/

theorem sweepBlock_power (who : Asker) (q : Nat) (e : Scan) (z : Sweeping) (i : Nat) :
    (sweepBlock who q e z i).s.power = z.s.power := by
  simp only [sweepBlock]
  split
  · rfl
  split <;> simp

@[simp] theorem sweep_power (who : Asker) (q e : Nat) : (sweep s who q e).1.power = s.power := by
  simp only [sweep]
  split
  · simp only [setScan_power, setCvu_power]
    split <;> simp
  · exact foldl_unchanged (fun z : Sweeping => z.s.power) (fun z i => sweepBlock_power ..) _ _

theorem firmwareWrite_power (q a : Nat) (bs : List Byte) : (firmwareWrite s q a bs).1.power = s.power := by
  simp only [firmwareWrite]
  rw [foldl_unchanged (fun z : State × List Status => z.1.power), foldl_unchanged (fun z : State × List Status => z.1.power)]
  · intro z u
    split
    · rfl
    · split
      · rfl
      · split <;> simp
  · intro z e
    split
    · rfl
    · split
      · rfl
      · simp only
        split <;> simp

@[simp] theorem firmwareRegisters_power (p a : Nat) (bs : List Byte) (q : Nat) : (firmwareRegisters p a bs s q).power = s.power := by
  have htell (x : State) (st : Status) : (tellWriter (.firmware p) (x, st)).power = x.power := by
    unfold tellWriter
    split <;> rfl
  simp only [firmwareRegisters]
  split
  · rfl
  · split
    · rfl
    · rw [foldl_power _ htell, firmwareWrite_power]

@[simp] theorem resumeOne_power (x : Stalled) : (resumeOne s x).power = s.power := by
  cases x with
  | signal src o q w v => simp [resumeOne]
  | register p a bs =>
    simp only [resumeOne]
    split <;> simp
  | write i req bs =>
    simp only [resumeOne]
    split
    · split
      · rfl
      · split <;> simp
    · rfl
  | read i req n =>
    simp only [resumeOne]
    split
    · split
      · rfl
      · split <;> simp
    · rfl

@[simp] theorem resumeStalled_power : (resumeStalled s).power = s.power := by simp [resumeStalled]

end Sys2Proof.Machine
end

section
/-! The package cap (13 R352). SET_CAP alone changes it, within its range, and a power-on reset takes it from its reset value; package
warm resets, quarter resets and restarts of the firmware processors keep it. -/
namespace Sys2Proof.Machine

/-! ### SET_CAP -/

theorem lt_nine_of_mem_controllers {s : State} {p : Nat} (h : p ∈ controllers s) : p < 9 := by
  obtain ⟨q, hq, rfl⟩ := List.mem_map.mp h
  obtain ⟨hmem, -⟩ := List.mem_filter.mp hq
  simp only [List.mem_cons, List.not_mem_nil, or_false] at hmem
  omega

theorem setCapRequest_check {m : Mail} (s : State) (h : carries m 2) : (setCapRequest m).check s = .ok := by
  obtain ⟨hneed, -, hspare⟩ := h
  simpa [Request.check, Status.lowest, setCapRequest, longTypes, Nat.not_lt.mpr hneed] using hspare

/-- SET_CAP answers what its effect on the state it reaches says. -/
theorem setCap_answers {s r v : State} {m : Mail} {st : Status} {bs : List Byte} (h : reaches s r m) (hc : carries m 2)
    (hact : doSetCap m r = .answer (v, st, bs)) : answers (.setCap m) s v m 0x0020 st bs := by
  obtain ⟨x, hx, harrive⟩ := arrive_of_reaches (q := setCapRequest m) (.setCap m) h rfl hc.2.1 (setCapRequest_check r hc)
    fun p hp => lt_nine_of_mem_controllers hp
  exact ⟨x, hx, congrArg Host.Outcome.next (harrive.trans (actOn_answer x.minor hact))⟩

theorem doSetCap_of_range {m : Mail} (s : State) (hlo : 1800 ≤ field m.payload 0 2) (hhi : field m.payload 0 2 ≤ 5200) :
    doSetCap m s = .answer (spreadBudgets { s with power := { s.power with cap := field m.payload 0 2 } }, .ok,
      leBytes 2 (field m.payload 0 2)) := by
  unfold doSetCap
  exact if_neg (by omega)

theorem doSetCap_of_not_range {m : Mail} (s : State) (h : field m.payload 0 2 < 1800 ∨ 5200 < field m.payload 0 2) :
    doSetCap m s = .answer (s, .range, []) := if_pos h

/-! ### Resets and restarts -/

theorem powerOnReset_power_cap {s : State} (env : BootEnv) (h : s.power.pwrgood = false) :
    ∃ u, exec (.powerOnReset env) s = .next u ∧ u.power.cap = 4800 := by
  refine ⟨_, rfl, ?_⟩
  simp only [h, Bool.false_eq_true, if_false, bootEarly_power_cap]
  rfl

theorem packageWarmReset_power_cap (s : State) (env : BootEnv) :
    ∃ u, exec (.packageWarmReset env) s = .next u ∧ u.power.cap = s.power.cap := by
  refine ⟨_, rfl, ?_⟩
  split <;> simp

/-- RESET of a quarter is refused, or waits for the end of a reset that has begun. -/
theorem doResetQuarter_cases (m : Mail) (s : State) :
    doResetQuarter m s = .answer (s, .range, []) ∨
    ∃ v, v.power.cap = s.power.cap ∧ doResetQuarter m s = .later v := by
  simp only [doResetQuarter]
  split
  · refine .inr ⟨_, ?_, rfl⟩
    exact resetQuarter_power_cap s (field m.payload 1 1)
  · exact .inl rfl

theorem resetQuarterMail_power_cap (s : State) (m : Mail) :
    ∃ u, exec (.resetQuarter m) s = .next u ∧ u.power.cap = s.power.cap := by
  refine ⟨_, rfl, request_power_cap s _ rfl fun x minor => ?_⟩
  obtain hact | ⟨v, hv, hact⟩ := doResetQuarter_cases m x
  · rw [actOn_answer (q := resetQuarterRequest m) minor hact, complete_power]
  · rw [actOn_later (q := resetQuarterRequest m) minor hact, withSession_power, hv]

theorem watchdogExpiry_power_cap (s : State) (p : Nat) :
    ∃ u, exec (.watchdogExpiry p) s = .next u ∧ u.power.cap = s.power.cap := by
  refine ⟨_, rfl, ?_⟩
  split <;> simp

/-- RESTART_PROC is refused, or its processor restarts once the reply is out. -/
theorem doRestartProc_cases (m : Mail) (s : State) :
    doRestartProc m s = .answer (s, .range, []) ∨
    doRestartProc m s = .answerThen (s, .ok, []) fun u => restartProcessor u (field m.payload 0 1) 5 := by
  simp only [doRestartProc]
  split
  · exact .inl rfl
  · exact .inr rfl

theorem restartProc_power_cap (s : State) (m : Mail) :
    ∃ u, exec (.restartProc m) s = .next u ∧ u.power.cap = s.power.cap := by
  refine ⟨_, rfl, request_power_cap s _ rfl fun x minor => ?_⟩
  obtain hact | hact := doRestartProc_cases m x
  · rw [actOn_answer (q := restartProcRequest m) minor hact, complete_power]
  · rw [actOn_answerThen (q := restartProcRequest m) minor hact, restartProcessor_power_cap, complete_power]

theorem processorRestartEnd_power_cap {s : State} (p : Nat) (hwaiting : s.mgmt.waiting = []) (hparked : s.mgmt.parked = []) :
    ∃ u, exec (.processorRestartEnd p) s = .next u ∧ u.power.cap = s.power.cap := by
  refine ⟨_, rfl, ?_⟩
  split
  · split <;> simp
  · split
    · split <;> simp [mgmtReturns, resumeParked, hwaiting, hparked]
    · rfl

/-- Settles O58: SET_CAP by the branches of its effect on a request that reaches the processor; a reset or a restart by the operations
that it runs, none of which writes the cap. -/
theorem packageCapIsSetAndKept : Obligations.PackageCapIsSetAndKept := by
  unfold Obligations.PackageCapIsSetAndKept
  refine ⟨fun s r m h hc => ⟨fun hlo hhi => ?_, fun hout => ?_⟩, fun s env hoff => powerOnReset_power_cap env hoff,
    fun s env m p => ⟨packageWarmReset_power_cap s env, resetQuarterMail_power_cap s m, watchdogExpiry_power_cap s p,
      restartProc_power_cap s m, processorRestartEnd_power_cap p⟩⟩
  · exact ⟨_, setCap_answers h hc (doSetCap_of_range r hlo hhi), rfl⟩
  · exact ⟨r, setCap_answers h hc (doSetCap_of_not_range r hout), congrArg Power.cap (power_eq_of_reaches h)⟩

end Sys2Proof.Machine
end
